-- ==== Sys2Proof/Word.lean ====
section
/-! DEFINITION. Word.lean: the units the manual counts in (bytes, lane and line numbers) and the fixed-size table that
holds "a fixed number of like things" (lanes, lines, domains, streams, sectors). -/

namespace Sys2Proof

/-- One byte, as the lanes, the service link and the flash carry it. -/
abbrev Byte := BitVec 8

/-- A capture lane, L0 to L15. -/
abbrev LaneNo := Fin 16

/-- A trigger line, T0 to T5. -/
abbrev LineNo := Fin 6

/-- A 12-bit conversion code of the ADC (R88). -/
abbrev AdcCode := Fin 4096

/-- Exactly `n` entries of one kind, indexed from 0. The list inside is plain data; the size is a fact about one field. -/
structure Table (α : Type) (n : Nat) where
  list : List α
  size : list.length = n
  deriving DecidableEq, Repr

/-- A table whose `n` entries are all `a`. -/
def Table.replicate {α : Type} (n : Nat) (a : α) : Table α n := ⟨List.replicate n a, List.length_replicate⟩

/-- The entry at a number that is known to be inside the table. -/
def Table.get {α : Type} {n : Nat} (t : Table α n) (i : Fin n) : α := t.list[i.val]'(by rw [t.size]; exact i.isLt)

/-- The entry at any number, or `d` past the table's end. -/
def Table.getD {α : Type} {n : Nat} (t : Table α n) (i : Nat) (d : α) : α := t.list.getD i d

/-- The table with entry `i` replaced; past the table's end nothing changes. -/
def Table.set {α : Type} {n : Nat} (t : Table α n) (i : Nat) (a : α) : Table α n :=
  ⟨t.list.set i a, by rw [List.length_set]; exact t.size⟩

/-- Every entry changed in the same way. -/
def Table.map {α β : Type} {n : Nat} (f : α → β) (t : Table α n) : Table β n :=
  ⟨t.list.map f, by rw [List.length_map]; exact t.size⟩

/-- A table made entry by entry of two tables. -/
def Table.zipWith {α β γ : Type} {n : Nat} (f : α → β → γ) (t : Table α n) (u : Table β n) : Table γ n :=
  ⟨List.zipWith f t.list u.list, by rw [List.length_zipWith, t.size, u.size, Nat.min_self]⟩

/-- A counter's rise by one: every counter of the part saturates at its largest value (About This Manual, Counters). -/
def satInc (top n : Nat) : Nat := if n < top then n + 1 else n

/-- The largest value of an 8-, a 16- and a 32-bit counter. -/
def max8 : Nat := 255
def max16 : Nat := 65535
def max32 : Nat := 4294967295

end Sys2Proof
end

