-- ==== Sys2Proof/Config.lean ====
section
/-! DEFINITION. Config.lean: the values the manual leaves open. Each is a constant with no body, so nothing can be proved of
it and every claim holds whatever it is. The numbers that the manual fixes stand with the definitions that use them. -/

namespace Sys2Proof

/-- Which value a byte holds after an interrupted flash operation (R6: "either at its former value or at the value being
programmed"; for an erase, "at 0xFF"): true says the byte took the new value. The first argument counts the interrupted
operations of the run (State.freeIndex), the second is the byte's address in the flash. A free value (log 3). -/
opaque Config.interruptedByteTaken : Nat → Nat → Bool

/-- The number that follows 2^32 − 1 where the manual says "one more" than a sequence that a 32-bit field holds and states
nothing for its largest value: the image sequence (R20), the sector sequence of a second mark of one record (R3), the next
from-sequence of LIST-RECORDS (R182). The argument is State.freeIndex. A free value (log 4). -/
opaque Config.sequenceAfterMax : Nat → BitVec 32

/-- The seconds and microseconds of GET-TIME when the computed wall-clock time lies outside what the reply's fields can
hold, that is, below 0 or at 2^64 seconds and more (R140 states no value there). A free value of the run (log 5). -/
opaque Config.wallClockOutOfRange : Nat → BitVec 64 × Fin 1000000

end Sys2Proof
end

