-- ==== Sys2Proof/Syntax.lean ====
section
/-! DEFINITION. Syntax.lean: the commands of the CQ416, one constructor for each row of spec/opcode_table.json, in the
table's order. The first kind are events of the part (a pin, a received byte, a timer, a report of the flash). The second
kind are requests of the service link: the command says that a request frame of that kind, with that tag and those body
fields, has been received whole; the numbers are the values of the frame's body fields as Formats lays them out. -/

namespace Sys2Proof

/-- What cuts one of recovery's programs short: the flash fails it, by its time limit or by report (R85, R145), or a power-on
reset stops it (R6, R25), with the levels of the two strap pins at the reset's end (R171). -/
inductive RecoveryCut where
  | fault (byLimit : Bool)
  | reset (strapFirst strapSecond : Bool)
  deriving DecidableEq, Repr

inductive Instr where
  /-- R127: the supply monitor, RESET_N or power-up. The levels of the two strap pins as sampled at its end (R171). -/
  | powerOnReset (strapFirst strapSecond : Bool)
  /-- R21 to R25: recovery at start-up, whole, or cut short at one of its programs, named by its number among those that
  recovery issues, counted from 0 (log 13). -/
  | recovery (program : Option Nat) (cut : RecoveryCut)
  /-- R159: select goes from released to asserted. `reconfigured` says that the assertion comes at the same moment as a
  reconfiguration of the lane that has been taken first, and so found select asserted (R169, log 38); by default none has. -/
  | selectAsserted (lane : LaneNo) (reconfigured : Bool := false)
  /-- R159: select goes from asserted to released. -/
  | selectReleased (lane : LaneNo)
  /-- R161, R162: the serial input brings one byte: its data bits, the parity bit that followed them (read under parity
  EVEN only), and its stop bit. -/
  | asyncLaneByte (lane : LaneNo) (data : Byte) (parityBit stopBit : Bool)
  /-- R167: the parser takes the oldest HELD fragment. -/
  | parserTake
  /-- R65: the sweep timer expires. -/
  | sweepTimerExpiry
  /-- R129: the trigger input takes a level (true: high). -/
  | triggerInputChange (line : LineNo) (level : Bool)
  /-- R129: the input has held the filter run's level for the filter time. -/
  | filterRunComplete (line : LineNo)
  /-- R138: the tick returns from 2^48 − 1 to 0. -/
  | tickWrap
  /-- R89: the scan timer expires. -/
  | scanTimerExpiry
  /-- R88: a scan completes with these two codes. -/
  | scanComplete (a0 a1 : AdcCode)
  /-- R114: the window timer expires. -/
  | windowExpiry
  /-- R115: the quiet timer expires. -/
  | quietExpiry
  /-- R117: the grace timer expires. -/
  | graceExpiry
  /-- R76, R82: the flash reports the page program in flight ready (`ok`) or failed. -/
  | pageProgramComplete (ok : Bool)
  /-- R9, R82: the flash reports the state-byte program in flight ready (`ok`) or failed. -/
  | stateByteProgramComplete (ok : Bool)
  /-- R82: the last byte of the page read in flight has been read. -/
  | pageReadComplete
  /-- R14, R82: the flash reports the sector erase in flight ready (`ok`) or failed. -/
  | sectorEraseComplete (ok : Bool)
  /-- R82, R85: the program or erase in flight reaches its time limit. -/
  | flashTimeLimitExpiry
  /-- R172: the service line brings one byte: its data bits and its stop bit. -/
  | serviceLineByte (data : Byte) (stopBit : Bool)
  /-- R176: the last byte of the reply being sent has been sent. The levels of the two strap pins, which the reset that
  follows a RESTART's reply samples at its end (R171, R186); after any other reply nothing reads them. By default both are
  low. -/
  | replySent (strapFirst : Bool := false) (strapSecond : Bool := false)
  /-- R178: a request whose kind is not in the catalogue. -/
  | unknownKindRequest (tag : Byte) (kind : Nat)
  | identify (tag : Byte)
  | status (tag : Byte)
  | configureLane (tag : Byte) (lane mode divisor : Nat) (parityEven report : Bool)
  | configureTrigger (tag : Byte) (line polarity filterCode prescale mode : Nat)
  | configureDomain (tag : Byte) (domain : Nat) (valid opensEpoch : Bool) (base spanExponent : Nat)
  | configurePrimary (tag : Byte) (enabled opensEpoch : Bool) (domain spanExponent : Nat)
  | configureStreams (tag : Byte) (first count enabled blockLimit : Nat)
  | configureAging (tag : Byte) (first last interval limit : Nat)
  | configurePool (tag : Byte) (reserve : Nat)
  | configureBudget (tag : Byte) (scale capacitance floor reserve pageCost ceiling : Nat)
  | configureAdc (tag : Byte) (interval failThreshold restoreThreshold count : Nat)
  | configureEpoch (tag : Byte) (window quiet grace holdupGrace powerOpens rearmPolicy closeReserve : Nat)
  | readConfigLane (tag : Byte) (index : Nat)
  | readConfigTrigger (tag : Byte) (index : Nat)
  | readConfigDomain (tag : Byte) (domain : Nat)
  | readConfigPrimary (tag : Byte)
  | readConfigStreams (tag : Byte) (first count : Nat)
  | readConfigAging (tag : Byte)
  | readConfigPool (tag : Byte)
  | readConfigBudget (tag : Byte)
  | readConfigAdc (tag : Byte)
  | readConfigEpoch (tag : Byte)
  | saveConfig (tag : Byte)
  | setTimeSet (tag : Byte) (seconds microseconds : Nat)
  | setTimeClear (tag : Byte)
  | getTime (tag : Byte)
  | log (tag : Byte) (code : Nat) (data : List Byte)
  | openEpoch (tag : Byte)
  | flush (tag : Byte) (choice : Nat)
  | rearm (tag : Byte)
  | listRecords (tag : Byte) (fromSeq count : Nat)
  | readRecord (tag : Byte) (seq offset length : Nat)
  | verify (tag : Byte) (seq : Nat)
  | release (tag : Byte) (upTo expectedOldest : Nat)
  | format (tag : Byte)
  | readStreamPeek (tag : Byte) (stream : Nat)
  | readStreamTake (tag : Byte) (stream : Nat)
  | takeAnomaliesTake (tag : Byte) (count : Nat)
  | takeAnomaliesPeek (tag : Byte) (count : Nat)
  | readHistory (tag : Byte) (fromSeq count : Nat)
  | countersPeek (tag : Byte) (group index : Nat)
  | countersTake (tag : Byte) (group index : Nat)
  | wait (tag : Byte) (condition argument timeout : Nat)
  /-- R185: the parked WAIT's timer expires. -/
  | waitTimeout
  | restart (tag : Byte) (force : Nat)
  /-- R159: a rising edge of the source's clock, with the level of its data line. -/
  | clockRisingEdge (lane : LaneNo) (bit : Bool)
  deriving DecidableEq, Repr

end Sys2Proof
end

