-- ==== Sys2Proof/Machine/State.lean ====
section
/-! DEFINITION. Machine/State.lean: everything the manual gives the CQ416, as plain data, and the part right after
power-on reset. INVENTORY.md lists each field with its width, its rule and its reset value. -/

namespace Sys2Proof.Machine

/-- The machine stops with a fault. -/
inductive Fault where
  /-- Raised when the flash port's operation in flight names a page outside the 512 sectors of 256 pages (R1, Capacities):
  no such page exists. Safe: no operation of the part names one, so no run from reset meets it. -/
  | noSuchFlashPage (page : Nat)
  deriving DecidableEq, Repr

/-- No meaning for a command. -/
inductive Refusal where
  /-- Raised by exec's arm for a command that has no meaning in this model. Safe. No arm answers it. -/
  | notModelled (mnemonic : String)
  deriving DecidableEq, Repr

/-! ## Shared shapes -/

/-- A setting that is a target of the pending-copy rule (R35): its active value and its pending copy, if one is held. -/
structure Pend (α : Type) where
  active : α
  pending : Option α
  deriving DecidableEq, Repr

/-- A source address (R26, Formats): a domain and a unit within it. -/
structure SourceAddr where
  domain : Nat
  unit : Nat
  deriving DecidableEq, Repr

/-! ## Capture lanes (R156 to R170) -/

inductive LaneMode where
  | off | clocked | async
  deriving DecidableEq, Repr

structure LaneSettings where
  mode : LaneMode
  divisor : Nat
  parityEven : Bool
  /-- COUNT_AND_ANOMALY when true, COUNT when false. -/
  report : Bool
  deriving DecidableEq, Repr

/-- The receive state (R158). -/
inductive LaneRx where
  | off | waiting | receiving | skipping
  deriving DecidableEq, Repr

/-- A staging slot (R158): EMPTY, FILLING with the bytes gathered so far, or HELD with one whole fragment. -/
inductive Slot where
  | empty
  | filling (bytes : List Byte)
  | held (bytes : List Byte)
  deriving DecidableEq, Repr

/-- The kinds of lane error, in code order (R166, Formats). -/
inductive LaneError where
  | framing | parity | stuffing | overrun | badHeader | length | check | aborted
  deriving DecidableEq, Repr

structure LaneCounters where
  accepted : Nat
  framing : Nat
  parity : Nat
  stuffing : Nat
  overrun : Nat
  badHeader : Nat
  length : Nat
  check : Nat
  aborted : Nat
  headerWarnings : Nat
  deriving DecidableEq, Repr

structure Lane where
  settings : LaneSettings
  rx : LaneRx
  /-- R158: a 0x7D not yet resolved (ASYNC). -/
  escape : Bool
  /-- R159: the bits of the incomplete byte sampled so far (CLOCKED), first sampled first. -/
  bits : List Bool
  slot0 : Slot
  slot1 : Slot
  /-- The level of the select input: true while the source asserts it. -/
  select : Bool
  counters : LaneCounters
  deriving DecidableEq, Repr

/-! ## Source map and streams (R26 to R40) -/

/-- A domain-table entry (R26). The span is 2 to the power `spanExponent`. -/
structure DomainEntry where
  valid : Bool
  opensEpoch : Bool
  base : Nat
  spanExponent : Nat
  deriving DecidableEq, Repr

/-- The primary domain setting (R27). -/
structure Primary where
  enabled : Bool
  opensEpoch : Bool
  domain : Nat
  spanExponent : Nat
  deriving DecidableEq, Repr

structure StreamSettings where
  enabled : Bool
  blockLimit : Nat
  deriving DecidableEq, Repr

inductive StreamState where
  | idle | assembling | discarding | barred
  deriving DecidableEq, Repr

/-- The record-in-progress fields of R34 other than the drop count, with the source address of the open record (R57). -/
structure InProgress where
  cls : Nat
  expected : Nat
  /-- The chain of the open record, head first; empty when the chain is absent. -/
  chain : List Nat
  bytes : Nat
  fragCount : Nat
  gap : Bool
  missing : Nat
  firstTick : Nat
  firstLane : Nat
  age : Nat
  source : SourceAddr
  deriving DecidableEq, Repr

structure Stream where
  settings : Pend StreamSettings
  state : StreamState
  record : InProgress
  drops : Nat
  deriving DecidableEq, Repr

/-- The aging settings (R63). -/
structure AgingSettings where
  first : Nat
  last : Nat
  interval : Nat
  limit : Nat
  deriving DecidableEq, Repr

structure ReassemblyCounters where
  complete : Nat
  completeGap : Nat
  restarted : Nat
  length : Nat
  pool : Nat
  aged : Nat
  flushed : Nat
  admitted : Nat
  dropped : Nat
  deriving DecidableEq, Repr

/-! ## Records, the commit queue and the writer (R67 to R81) -/

inductive RecKind where
  | dump | history | events | anomalies | openMark | closeMark
  deriving DecidableEq, Repr

/-- COMPLETE, or TRUNCATED with its cause (R4). -/
inductive Completion where
  | complete | restarted | length | pool | aged | flushed
  deriving DecidableEq, Repr

/-- The header values of a record that reassembly or the part gives it (R4, R57). -/
structure RecInfo where
  kind : RecKind
  cls : Nat
  source : SourceAddr
  stream : Nat
  completion : Completion
  lane : Nat
  gap : Bool
  missing : Nat
  fragCount : Nat
  payloadLen : Nat
  firstTick : Nat
  doneTick : Nat
  deriving DecidableEq, Repr

/-- An entry of the commit queue (R67). `payload` holds the OPEN_MARK's values, which are fixed when the epoch opens and
travel with the entry (R112); it is empty for a DUMP, whose payload is its chain, and for a HISTORY, read from the ring. -/
structure QEntry where
  info : RecInfo
  chain : List Nat
  payload : List Byte
  deriving DecidableEq, Repr

inductive WriterState where
  | idle | selecting | programming | closing | fault
  deriving DecidableEq, Repr

/-- The record in flight (R75, R76). -/
structure InFlight where
  info : RecInfo
  /-- The DUMP's whole chain; `returned` of its blocks have gone back to the free list, the rest is the remainder. -/
  chain : List Nat
  returned : Nat
  /-- The payload of a record that the part composes. -/
  payload : List Byte
  /-- The page count n, fixed at admission. -/
  pages : Nat
  /-- Frame pages programmed so far, mark pages not counted. -/
  done : Nat
  /-- The page of the header, once it has been programmed. -/
  start : Option Nat
  /-- The sequence number, once the header has been programmed; 0 before. -/
  seq : Nat
  /-- The check of the record before it, which seeds this one (R8). -/
  seed : Nat
  /-- The running check: A and B. -/
  sumA : Nat
  sumB : Nat
  /-- The tick at which the record was admitted (R75). -/
  admitTick : Nat
  deriving DecidableEq, Repr

structure Writer where
  state : WriterState
  inFlight : Option InFlight
  /-- The close writes still to be taken, in order (R80); empty outside CLOSING. -/
  toClose : List RecKind
  /-- R78: the OPEN_MARK of the open epoch has been dropped by the space test. -/
  openMarkDropped : Bool
  /-- The sequence of the open epoch's OPEN_MARK once it is VALID (R15, test 6). -/
  openMarkSeq : Option Nat
  deriving DecidableEq, Repr

structure CommitCounters where
  offered : Nat
  evicted : Nat
  queueFull : Nat
  storeFull : Nat
  budget : Nat
  fault : Nat
  written : Nat
  pages : Nat
  abandoned : Nat
  flashFaults : Nat
  refusedInFault : Nat
  deriving DecidableEq, Repr

/-! ## The flash port and the store (R1 to R25, R82 to R87) -/

inductive OpKind where
  | pageProgram | stateByte | pageRead | erase
  deriving DecidableEq, Repr

inductive Claimant where
  | writer | service | background | recovery
  deriving DecidableEq, Repr

/-- One flash operation: its page address (sector × 256 + page) and, for a program, the bytes it programs from the page's
first byte on. A state byte is the first byte of its record's first page. -/
structure FlashOp where
  kind : OpKind
  page : Nat
  data : List Byte
  deriving DecidableEq, Repr

structure OpInFlight where
  op : FlashOp
  claimant : Claimant
  /-- Time left to the operation's limit in µs; none for a page read (R82). -/
  limit : Option Nat
  deriving DecidableEq, Repr

/-- The flash port (R82). -/
structure Port where
  inFlight : Option OpInFlight
  waitWriter : Option FlashOp
  waitService : Option FlashOp
  waitErase : Option FlashOp
  fault : Bool
  /-- The last grant: true for service, false for writer. -/
  lastService : Bool
  /-- R85: the operation that its time limit has ended and whose report has not come yet. -/
  lateReport : Option OpKind
  deriving DecidableEq, Repr

/-- A sector mark's fields (R3); `firstRecord` 0 means none. -/
structure Mark where
  seq : Nat
  epoch : Nat
  firstRecord : Nat
  deriving DecidableEq, Repr

/-- A sector directory entry (R1, R11). -/
inductive DirEntry where
  | blank
  | inUse (mark : Mark) (firstSeq : Option Nat)
  | damaged
  | unknown
  deriving DecidableEq, Repr

/-- A record of the log: its sequence, its first page and its payload length. -/
structure LogRecord where
  seq : Nat
  page : Nat
  payloadLen : Nat
  deriving DecidableEq, Repr

/-- The store pointers (R7) and the two store counters (R22). Page addresses are sector × 256 + page. -/
structure Store where
  tail : Nat
  erasedRun : Nat
  /-- Sequence and first page of the oldest VALID or TORN record. -/
  oldest : Option (Nat × Nat)
  releasedEnd : Option Nat
  lastSeq : Nat
  lastCheck : Nat
  lastEpoch : Nat
  lastSectorSeq : Nat
  low : Bool
  exhausted : Bool
  tornRecords : Nat
  lostPages : Nat
  /-- The records present, in log order: the model's own (log 47). Their states stand in the flash. -/
  records : List LogRecord
  deriving DecidableEq, Repr

/-! ## Hold-up power and the budget (R88 to R107) -/

inductive PowerState where
  | main | holdup
  deriving DecidableEq, Repr

structure AdcSettings where
  interval : Nat
  failThreshold : Nat
  restoreThreshold : Nat
  count : Nat
  deriving DecidableEq, Repr

/-- The hold-up monitor (R88 to R92). -/
structure Monitor where
  settings : AdcSettings
  scanning : Bool
  /-- Time left on the scan timer in µs. -/
  scanTimer : Option Nat
  /-- The A0 codes of the last four completed scans, newest first. -/
  codes : Table Nat 4
  lastA1 : Nat
  run : Nat
  /-- Scans completed since the reset, up to 4. -/
  scansSeen : Nat
  power : PowerState
  deriving DecidableEq, Repr

structure BudgetSettings where
  scale : Nat
  capacitance : Nat
  floor : Nat
  reserve : Nat
  pageCost : Nat
  ceiling : Nat
  deriving DecidableEq, Repr

/-- The budget unit (R97 to R104). -/
structure Budget where
  settings : BudgetSettings
  energy : Nat
  outstanding : Nat
  exhaustionMade : Bool
  deriving DecidableEq, Repr

structure PowerCounters where
  scans : Nat
  losses : Nat
  restorations : Nat
  refusals : Nat
  exhaustions : Nat
  deriving DecidableEq, Repr

/-! ## Epochs (R108 to R127) -/

inductive EpochState where
  | watch | capture | flush | closed
  deriving DecidableEq, Repr

inductive OpenCause where
  | none | trigger (line : Nat) | source (domain : Nat) | power | service
  deriving DecidableEq, Repr

inductive FlushCause where
  | none | window | quiet | trigger (line : Nat) | service | power | exhausted | storeFull | interrupted
  deriving DecidableEq, Repr

structure EpochSettings where
  window : Nat
  quiet : Nat
  grace : Nat
  holdupGrace : Nat
  powerOpens : Bool
  /-- AUTO when true, MANUAL when false. -/
  autoRearm : Bool
  closeReserve : Nat
  deriving DecidableEq, Repr

/-- The epoch tally (R120). -/
structure Tally where
  written : Nat
  lost : Nat
  admitted : Nat
  history : Bool
  deriving DecidableEq, Repr

structure Epoch where
  settings : EpochSettings
  state : EpochState
  number : Nat
  openCause : OpenCause
  flushCause : FlushCause
  openTick : Nat
  flushTick : Nat
  /-- Time left in µs on a running timer; none when stopped. -/
  windowTimer : Option Nat
  quietTimer : Option Nat
  graceTimer : Option Nat
  streamsClosed : Bool
  storeFullTaken : Bool
  tally : Tally
  deriving DecidableEq, Repr

/-! ## Trigger lines and the timebase (R128 to R141) -/

inductive TriggerMode where
  | off | event | openEpoch | flush
  deriving DecidableEq, Repr

structure TriggerSettings where
  activeHigh : Bool
  filterCode : Nat
  prescale : Nat
  mode : TriggerMode
  deriving DecidableEq, Repr

structure TriggerLine where
  settings : TriggerSettings
  /-- The level of the input pin (true: high). -/
  input : Bool
  level : Bool
  /-- The level the input holds and the tick since which it has held it. -/
  run : Option (Bool × Nat)
  count : Nat
  edges : Nat
  firings : Nat
  deriving DecidableEq, Repr

/-- The wall-clock anchor (R139). -/
structure Anchor where
  seconds : Nat
  microseconds : Nat
  tick : Nat
  wrap : Nat
  deriving DecidableEq, Repr

/-! ## Event history and anomalies (R142 to R155) -/

inductive Block where
  | epoch | power | writer
  deriving DecidableEq, Repr

inductive Origin where
  | lane (lane : Nat) (source : SourceAddr)
  | trigger (line : Nat)
  | service
  | part (block : Block)
  deriving DecidableEq, Repr

structure HEntry where
  seq : Nat
  tick : Nat
  origin : Origin
  code : Nat
  data : List Byte
  deriving DecidableEq, Repr

/-- The history unit. The ring and the list are held oldest first. -/
structure History where
  ring : List HEntry
  list : List HEntry
  frozen : Bool
  nextSeq : Nat
  lostEvents : Nat
  admitted : Nat
  overwrites : Nat
  dropped : Nat
  eventFragments : Nat
  deriving DecidableEq, Repr

inductive AnomalyKind where
  | unknownDomain | unitOutOfSpan | streamBarred | unexpectedContinuation | duplicate | stale | notCapturing | agedOut
  | evicted | queueFull | budget | storeFull | flashFault | cannotOpen | laneError | configLost
  deriving DecidableEq, Repr

structure Anomaly where
  kind : AnomalyKind
  lane : Option Nat
  source : Option SourceAddr
  stream : Option Nat
  tick : Nat
  detail : Nat
  deriving DecidableEq, Repr

/-- The anomaly queue, oldest first (R152). -/
structure Anomalies where
  entries : List Anomaly
  lost : Nat
  posted : Nat
  deriving DecidableEq, Repr

/-! ## The service link (R171 to R187) -/

inductive Status where
  | ok | applied | pending | busy | refusedState | badArgument | overlap | notFound | mismatch | timeout | unknownRequest
  | retry
  deriving DecidableEq, Repr

/-- A CONFIGURE body, target by target; the numbers are the values of the entry's fields (Formats). -/
inductive ConfigWrite where
  | lane (index mode divisor : Nat) (parityEven report : Bool)
  | trigger (index polarity filterCode prescale mode : Nat)
  | domain (index : Nat) (valid opensEpoch : Bool) (base spanExponent : Nat)
  | primary (enabled opensEpoch : Bool) (domain spanExponent : Nat)
  | streams (first count enabled blockLimit : Nat)
  | aging (first last interval limit : Nat)
  | pool (reserve : Nat)
  | budget (scale capacitance floor reserve pageCost ceiling : Nat)
  | adc (interval failThreshold restoreThreshold count : Nat)
  | epoch (window quiet grace holdupGrace powerOpens rearmPolicy closeReserve : Nat)
  deriving DecidableEq, Repr

inductive ConfigRead where
  | lane (index : Nat) | trigger (index : Nat) | domain (index : Nat) | primary | streams (first count : Nat) | aging | pool
  | budget | adc | epoch
  deriving DecidableEq, Repr

/-- The condition of a WAIT (R184). -/
inductive WaitCond where
  | record (after : Nat)
  | epochChange (state : EpochState)
  | anomalyPresent
  deriving DecidableEq, Repr

/-- The groups of COUNTERS (R181). -/
inductive CounterGroup where
  | lane | trigger | reassembly | commit | power | history | anomaly | store | link
  deriving DecidableEq, Repr

/-- A request as the queue holds it: its kind with the fields of its body. `malformed` is a body that cannot be read as
Formats lays it out (R178, test 3); `unknown` a kind that is not in the catalogue (test 1). -/
inductive Request where
  | unknown (kind : Nat)
  | malformed (kind : Nat)
  | identify
  | status
  | configure (write : ConfigWrite)
  | readConfig (read : ConfigRead)
  | saveConfig
  | setTime (seconds microseconds : Nat)
  | clearTime
  | getTime
  | log (code : Nat) (data : List Byte)
  | openEpoch
  | flush (noGrace : Bool)
  | rearm
  | listRecords (fromSeq count : Nat)
  | readRecord (seq offset length : Nat)
  | verify (seq : Nat)
  | release (upTo expected : Nat)
  | format
  | readStream (stream : Nat) (take : Bool)
  | takeAnomalies (count : Nat) (take : Bool)
  | readHistory (fromSeq count : Nat)
  | counters (group : CounterGroup) (index : Nat) (take : Bool)
  | wait (cond : WaitCond) (timeout : Nat)
  | restart (force : Bool)
  deriving DecidableEq, Repr

/-- A place of the request queue (R174): the request, its tag, and the tick and wrap count of its arrival (R173, R139). -/
structure Queued where
  req : Request
  tag : Byte
  tick : Nat
  wrap : Nat
  deriving DecidableEq, Repr

/-- A reply handed to the transmitter (R176). `server` says that it came from the server (not from the parked WAIT);
`reset` that it is the reply of an accepted RESTART (R186). -/
structure Reply where
  kind : Nat
  tag : Byte
  status : Status
  body : List Byte
  server : Bool
  reset : Bool
  deriving DecidableEq, Repr

/-- The parked WAIT (R184); `timer` is its time left in µs. -/
structure Parked where
  tag : Byte
  cond : WaitCond
  timer : Option Nat
  deriving DecidableEq, Repr

/-- What VERIFY has found of its record (R17). -/
structure Verified where
  seq : Nat
  state : Byte
  computed : Nat
  stored : Nat
  lengthAgrees : Bool
  prevCheck : Nat
  deriving DecidableEq, Repr

/-- The request in service that is using the flash, by how far it has come. `page` is the page of its next read. READ-RECORD
looks the record up and then reads frame page `index` on, for frame bytes `offset` to `stop` − 1. LIST-RECORDS holds the
sequence of the last header that passed (`prev`), the summaries so far (`out`) and the last sequence listed. VERIFY looks
the record up, reads its pages (`left` of them to come), and reads the trailer of the nearest earlier VALID or RELEASED record,
which stands `skip` bytes into its first page read.
RELEASE counts its marks; SAVE-CONFIG holds the composed image and its next page; FORMAT the sectors still to erase. -/
inductive Job where
  | readLookup (seq offset length page : Nat)
  | readPages (page index offset stop : Nat) (gathered : List Byte)
  | list (fromSeq count page : Nat) (prev : Option Nat) (out : List (List Byte)) (skipped : Bool) (last : Option Nat)
  | verifyLookup (seq page : Nat)
  | verifyPages (page left : Nat) (gathered : List Byte)
  | verifyTrailer (found : Verified) (page left skip : Nat) (gathered : List Byte)
  | release (upTo marked : Nat)
  | save (image : List Byte) (next : Nat)
  | format (sectors : List Nat)
  deriving DecidableEq, Repr

/-- The server (R175): nothing in service; a request in service that waits for the flash port (`ended` once MAIN_LOST has
ended it, R84); or a reply handed over and not yet sent. -/
inductive Server where
  | free
  | working (job : Job) (ended : Bool)
  | replying
  deriving DecidableEq, Repr

inductive LinkRx where
  | hunting | between | gathering
  deriving DecidableEq, Repr

structure LinkCounters where
  queued : Nat
  lineErrors : Nat
  stuffingErrors : Nat
  lengthErrors : Nat
  crcErrors : Nat
  queueFull : Nat
  served : Nat
  repliesSent : Nat
  waitsParked : Nat
  waitsBusy : Nat
  waitTimeouts : Nat
  deriving DecidableEq, Repr

structure Link where
  bitRate : Nat
  rx : LinkRx
  gathered : List Byte
  escape : Bool
  queue : List Queued
  server : Server
  parked : Option Parked
  /-- Replies handed to the transmitter and not yet sent, in order. -/
  tx : List Reply
  /-- The bytes on the line of the reply sent last. -/
  lineOut : List Byte
  counters : LinkCounters
  deriving DecidableEq, Repr

inductive ResetKind where
  | powerOn | restart
  deriving DecidableEq, Repr

/-! ## The whole part -/

/-- The state of the CQ416: every register, memory, queue, counter, timer and pin the manual gives it, and the queue of
commands that wait. Four fields are the model's own: `pending`, `freeIndex`, `examDue` and `store.records`. -/
structure State where
  /-- Commands that wait, first in, first out. -/
  pending : List Instr
  /-- How many free values have been used (log 3, 4, 5). -/
  freeIndex : Nat
  /-- An occasion of R72 has arisen within the present change and the writer has not yet examined the queue. -/
  examDue : Bool
  /-- R171: the levels of the two strap pins as sampled at the end of the last reset. -/
  strapFirst : Bool
  strapSecond : Bool
  lastReset : ResetKind
  recovering : Bool
  tick : Nat
  wrap : Nat
  anchor : Option Anchor
  imageSeq : Nat
  lanes : Table Lane 16
  /-- The HELD slots in the order in which they became HELD (R167): lane, and whether slot 1. -/
  heldOrder : List (LaneNo × Bool)
  domains : Table (Pend DomainEntry) 64
  primary : Pend Primary
  streams : Table Stream 512
  aging : Pend AgingSettings
  cursor : Nat
  sweepTimer : Option Nat
  /-- The bytes of the 2048 blocks: byte i of block b at 256 × b + i. -/
  pool : List Host.Cell
  freeList : List Nat
  poolReserve : Pend Nat
  reassembly : ReassemblyCounters
  queue : List QEntry
  writer : Writer
  commit : CommitCounters
  port : Port
  /-- The external flash: byte i of page p of sector s at (256 × s + p) × 256 + i. -/
  flash : List Host.Cell
  store : Store
  /-- The sector directory; entry s is sector s, and entry 0 (the image's sector) is not used. -/
  directory : Table DirEntry 512
  monitor : Monitor
  budget : Budget
  powerCounters : PowerCounters
  epoch : Epoch
  lines : Table TriggerLine 6
  history : History
  anomalies : Anomalies
  link : Link
  deriving DecidableEq, Repr

/-! ## After power-on reset -/

def LaneSettings.default : LaneSettings := ⟨.clocked, 417, false, false⟩
def LaneCounters.zero : LaneCounters := ⟨0, 0, 0, 0, 0, 0, 0, 0, 0, 0⟩
def DomainEntry.default (d : Nat) : DomainEntry := ⟨true, false, 8 * d, 3⟩
def Primary.default : Primary := ⟨false, false, 0, 0⟩
def StreamSettings.default : StreamSettings := ⟨true, 256⟩
/-- R34: the idle values of a record in progress. The table gives the source address none; it is domain 0, unit 0 (log 44). -/
def InProgress.idle : InProgress := ⟨0, 1, [], 0, 0, false, 0, 0, 0, 0, ⟨0, 0⟩⟩
def AgingSettings.default : AgingSettings := ⟨0, 511, 10, 8⟩
def ReassemblyCounters.zero : ReassemblyCounters := ⟨0, 0, 0, 0, 0, 0, 0, 0, 0⟩
def CommitCounters.zero : CommitCounters := ⟨0, 0, 0, 0, 0, 0, 0, 0, 0, 0, 0⟩
def PowerCounters.zero : PowerCounters := ⟨0, 0, 0, 0, 0⟩
def LinkCounters.zero : LinkCounters := ⟨0, 0, 0, 0, 0, 0, 0, 0, 0, 0, 0⟩
def AdcSettings.default : AdcSettings := ⟨10, 2800, 3100, 4⟩
def BudgetSettings.default : BudgetSettings := ⟨5500, 470, 3300, 150000, 2400, 3⟩
def EpochSettings.default : EpochSettings := ⟨60000, 255, 200, 0, true, true, 64⟩
def TriggerSettings.default : TriggerSettings := ⟨false, 4, 1, .off⟩
def Tally.zero : Tally := ⟨0, 0, 0, false⟩

/-- R128: the filtered level of a line is the input's level at the end of the reset. -/
def TriggerLine.start (set : TriggerSettings) (input : Bool) : TriggerLine := ⟨set, input, input, none, 0, 0, 0⟩

/-- R158: the lane at the end of a reset: slots EMPTY and the receive state by the mode and the select input. -/
def Lane.start (set : LaneSettings) (select : Bool) : Lane :=
  let rx := match set.mode with
    | .off => LaneRx.off
    | .clocked => if select then .skipping else .waiting
    | .async => .skipping
  ⟨set, rx, false, [], .empty, .empty, select, LaneCounters.zero⟩

/-- R33, R34: a stream after a reset. -/
def Stream.start (set : StreamSettings) : Stream :=
  ⟨⟨set, none⟩, if set.enabled then .idle else .barred, InProgress.idle, 0⟩

def Writer.start : Writer := ⟨.idle, none, [], false, none⟩

/-- R82. -/
def Port.start : Port := ⟨none, none, none, none, false, true, none⟩

/-- The pointers before recovery gives them their values (R7, log 8); a reset keeps last sequence and last check (R10). -/
def Store.start : Store := ⟨256, 0, none, none, 0, 1, 0, 0, true, false, 0, 0, []⟩

/-- R107. -/
def Monitor.start (set : AdcSettings) : Monitor := ⟨set, true, none, Table.replicate 4 0, 0, 0, 0, .main⟩
def Budget.start (set : BudgetSettings) : Budget := ⟨set, 0, 0, false⟩

/-- R108, R127: CLOSED throughout recovery. The epoch number is 0 until recovery hands its own over (log 8). -/
def Epoch.start (set : EpochSettings) : Epoch :=
  ⟨set, .closed, 0, .none, .none, 0, 0, none, none, none, false, false, Tally.zero⟩

/-- R149. -/
def History.start : History := ⟨[], [], false, 1, 0, 0, 0, 0, 0⟩

/-- R155. -/
def Anomalies.start : Anomalies := ⟨[], 0, 0⟩

/-- R171. -/
def bitRateOf (first second : Bool) : Nat :=
  match first, second with
  | false, false => 115200
  | true, false => 460800
  | false, true => 921600
  | true, true => 3000000

/-- R187. -/
def Link.start (bitRate : Nat) : Link :=
  ⟨bitRate, .hunting, [], false, [], .free, none, [], [], LinkCounters.zero⟩

/-- The part right after power-on reset on a board whose flash is blank: the strap pins and select inputs released, the
trigger inputs high (log 9). Sector 0 is blank, so the defaults hold and CONFIG_LOST has been queued with detail 1 (R19,
R155). Recovery has not run yet, and the first scan has begun (R89). -/
def State.reset : State where
  pending := []
  freeIndex := 0
  examDue := false
  strapFirst := false
  strapSecond := false
  lastReset := .powerOn
  recovering := true
  tick := 0
  wrap := 0
  anchor := none
  imageSeq := 0
  lanes := Table.replicate 16 (Lane.start LaneSettings.default false)
  heldOrder := []
  domains := ⟨(List.range 64).map fun d => ⟨DomainEntry.default d, none⟩, by rw [List.length_map, List.length_range]⟩
  primary := ⟨Primary.default, none⟩
  streams := Table.replicate 512 (Stream.start StreamSettings.default)
  aging := ⟨AgingSettings.default, none⟩
  cursor := 0
  sweepTimer := some 1000
  pool := []
  freeList := List.range 2048
  poolReserve := ⟨128, none⟩
  reassembly := ReassemblyCounters.zero
  queue := []
  writer := Writer.start
  commit := CommitCounters.zero
  port := Port.start
  flash := []
  store := Store.start
  directory := Table.replicate 512 .unknown
  monitor := Monitor.start AdcSettings.default
  budget := Budget.start BudgetSettings.default
  powerCounters := PowerCounters.zero
  epoch := Epoch.start EpochSettings.default
  lines := Table.replicate 6 (TriggerLine.start TriggerSettings.default true)
  history := History.start
  anomalies := ⟨[⟨.configLost, none, none, none, 0, 1⟩], 0, 1⟩
  link := Link.start 115200

end Sys2Proof.Machine
end

