-- ==== Sys2Proof/Machine/Memory.lean ====
section
/-! DEFINITION. Machine/Memory.lean: the byte memories (the flash and the block memory) as lists of cells in one canonical
form, byte order, and the CRC-16. -/

namespace Sys2Proof.Machine

/-! ## Byte memory

A memory is a list of (address, byte) cells, addresses strictly rising, that never lists a byte equal to what an unlisted
address reads as. `d` is that byte: 0xFF for the flash (an erased byte reads 0xFF, R1), 0x00 for the block memory (log 6). -/

/-- What an unlisted flash byte reads as: 0xFF (R1, R5). -/
def flashBlank : Byte := 0xFF

/-- What a byte of the block memory reads as that no append has stored: 0 (log 6). -/
def poolBlank : Byte := 0

/-- Addresses strictly rising from `low` on, and no cell equal to the unlisted byte. -/
def Memory.wfFrom (d : Byte) : Nat → List Host.Cell → Bool
  | _, [] => true
  | low, c :: m => decide (low ≤ c.1) && decide (c.2 ≠ d) && Memory.wfFrom d (c.1 + 1) m

/-- The canonical form. -/
def Memory.wf (d : Byte) (m : List Host.Cell) : Bool := Memory.wfFrom d 0 m

/-- The byte at an address. -/
def Memory.read (d : Byte) : List Host.Cell → Nat → Byte
  | [], _ => d
  | c :: m, a => if c.1 = a then c.2 else Memory.read d m a

/-- The cells that list `bytes` from address `a` on. -/
def Memory.cells (d : Byte) : Nat → List Byte → List Host.Cell
  | _, [] => []
  | a, b :: bs => if b = d then Memory.cells d (a + 1) bs else (a, b) :: Memory.cells d (a + 1) bs

/-- The memory with `bytes` stored from address `a` on. -/
def Memory.store (d : Byte) (m : List Host.Cell) (a : Nat) (bytes : List Byte) : List Host.Cell :=
  m.filter (fun c => decide (c.1 < a)) ++ Memory.cells d a bytes
    ++ m.filter (fun c => decide (a + bytes.length ≤ c.1))

/-- The `n` bytes from address `a` on. -/
def Memory.load (d : Byte) (m : List Host.Cell) (a n : Nat) : List Byte :=
  let near := m.filter fun c => decide (a ≤ c.1) && decide (c.1 < a + n)
  (List.range n).map fun i => Memory.read d near (a + i)

/-- The memory with the `n` bytes from address `a` on returned to the unlisted byte. -/
def Memory.clear (m : List Host.Cell) (a n : Nat) : List Host.Cell :=
  m.filter fun c => decide (c.1 < a) || decide (a + n ≤ c.1)

/-- Whether the `n` bytes from address `a` on all read as the unlisted byte. -/
def Memory.isClear (m : List Host.Cell) (a n : Nat) : Bool :=
  m.all fun c => decide (c.1 < a) || decide (a + n ≤ c.1)

/-! ## Byte order (About This Manual) -/

/-- `n` bytes of a value, least significant first. -/
def le : Nat → Nat → List Byte
  | 0, _ => []
  | n + 1, v => BitVec.ofNat 8 v :: le n (v / 256)

/-- The value that bytes hold, least significant first. -/
def ofLe : List Byte → Nat
  | [] => 0
  | b :: bs => b.toNat + 256 * ofLe bs

/-- The `n`-byte field at an offset. -/
def fieldOf (bytes : List Byte) (offset n : Nat) : Nat := ofLe ((bytes.drop offset).take n)

/-- One byte of yes or no. -/
def boolByte (b : Bool) : Byte := if b then 1 else 0

/-! ## The CRC-16 (R164) -/

/-- One bit: the register is shifted left, and the polynomial applied when the bit differs from the register's top bit. -/
def crcBit (r : BitVec 16) (bit : Bool) : BitVec 16 :=
  if (r.msb != bit) = true then (r <<< 1) ^^^ 0x1021#16 else r <<< 1

/-- One byte, most significant bit first. -/
def crcByte (r : BitVec 16) (b : Byte) : BitVec 16 :=
  [7, 6, 5, 4, 3, 2, 1, 0].foldl (fun r i => crcBit r (b.getLsbD i)) r

/-- The CRC-16 over a run of bytes, from 0xFFFF, with no final inversion. -/
def crc16 (bytes : List Byte) : BitVec 16 := bytes.foldl crcByte 0xFFFF#16

/-- A CRC-16 as it is sent and stored: high byte first. -/
def crcBytes (bytes : List Byte) : List Byte :=
  let r := crc16 bytes
  [r.extractLsb' 8 8, r.extractLsb' 0 8]

/-- Whether the two bytes after `bytes` are its CRC-16. -/
def crcAgrees (bytes crc : List Byte) : Bool := crc == crcBytes bytes

/-! ## Byte stuffing (R162) -/

/-- The bytes of a frame as they stand between delimiters: 0x7E and 0x7D become 0x7D and the byte XOR 0x20. -/
def stuff : List Byte → List Byte
  | [] => []
  | b :: bs => if b = 0x7E ∨ b = 0x7D then 0x7D :: (b ^^^ 0x20) :: stuff bs else b :: stuff bs

/-- A frame on the line: a delimiter, the stuffed bytes, a delimiter (R176). -/
def lineFrame (bytes : List Byte) : List Byte := 0x7E :: (stuff bytes ++ [0x7E])

/-! ## The duration code (About This Manual) -/

/-- The number of units an 8-bit duration code stands for. -/
def duration (c : Nat) : Nat :=
  if c < 128 then c
  else if c < 192 then 128 + 2 * (c - 128)
  else if c < 224 then 256 + 8 * (c - 192)
  else 512 + 16 * (c - 224)

end Sys2Proof.Machine
end

