-- ==== Sys2Proof/Machine/Formats.lean ====
section
/-! DEFINITION. Machine/Formats.lean: the codes and byte layouts of the Formats chapter, written and read. -/

namespace Sys2Proof.Machine

/-! ## Codes -/

inductive FragKind where
  | first | middle | last | only | event
  deriving DecidableEq, Repr

def FragKind.code : FragKind → Nat
  | .first => 1 | .middle => 2 | .last => 3 | .only => 4 | .event => 5

def FragKind.ofCode : Nat → Option FragKind
  | 1 => some .first | 2 => some .middle | 3 => some .last | 4 => some .only | 5 => some .event | _ => none

def RecKind.code : RecKind → Nat
  | .dump => 1 | .history => 2 | .events => 3 | .anomalies => 4 | .openMark => 5 | .closeMark => 6

def Completion.code : Completion → Nat
  | .complete => 0 | .restarted => 1 | .length => 2 | .pool => 3 | .aged => 4 | .flushed => 5

def EpochState.code : EpochState → Nat
  | .watch => 1 | .capture => 2 | .flush => 3 | .closed => 4

def EpochState.ofCode : Nat → Option EpochState
  | 1 => some .watch | 2 => some .capture | 3 => some .flush | 4 => some .closed | _ => none

def PowerState.code : PowerState → Nat
  | .main => 1 | .holdup => 2

def WriterState.code : WriterState → Nat
  | .idle => 1 | .selecting => 2 | .programming => 3 | .closing => 4 | .fault => 5

def StreamState.code : StreamState → Nat
  | .idle => 1 | .assembling => 2 | .discarding => 3 | .barred => 4

def OpenCause.code : OpenCause → Nat
  | .none => 0 | .trigger _ => 1 | .source _ => 2 | .power => 3 | .service => 4

/-- The line or domain of an open cause, or 0. -/
def OpenCause.arg : OpenCause → Nat
  | .trigger l => l | .source d => d | _ => 0

def FlushCause.code : FlushCause → Nat
  | .none => 0 | .window => 1 | .quiet => 2 | .trigger _ => 3 | .service => 4 | .power => 5 | .exhausted => 6
  | .storeFull => 7 | .interrupted => 8

/-- The line of a flush cause, or 0. -/
def FlushCause.arg : FlushCause → Nat
  | .trigger l => l | _ => 0

def OpKind.code : OpKind → Nat
  | .pageProgram => 1 | .stateByte => 2 | .pageRead => 3 | .erase => 4

def Claimant.code : Claimant → Nat
  | .writer => 1 | .service => 2 | .background => 3 | .recovery => 4

def LaneError.code : LaneError → Nat
  | .framing => 1 | .parity => 2 | .stuffing => 3 | .overrun => 4 | .badHeader => 5 | .length => 6 | .check => 7
  | .aborted => 8

def AnomalyKind.code : AnomalyKind → Nat
  | .unknownDomain => 1 | .unitOutOfSpan => 2 | .streamBarred => 3 | .unexpectedContinuation => 4 | .duplicate => 5
  | .stale => 6 | .notCapturing => 7 | .agedOut => 8 | .evicted => 9 | .queueFull => 10 | .budget => 11
  | .storeFull => 12 | .flashFault => 13 | .cannotOpen => 14 | .laneError => 15 | .configLost => 16

def Status.code : Status → Nat
  | .ok => 0 | .applied => 1 | .pending => 2 | .busy => 3 | .refusedState => 4 | .badArgument => 5 | .overlap => 6
  | .notFound => 7 | .mismatch => 8 | .timeout => 9 | .unknownRequest => 10 | .retry => 11

def LaneMode.code : LaneMode → Nat
  | .off => 0 | .clocked => 1 | .async => 2

def LaneMode.ofCode : Nat → Option LaneMode
  | 0 => some .off | 1 => some .clocked | 2 => some .async | _ => none

def LaneRx.code : LaneRx → Nat
  | .off => 0 | .waiting => 1 | .receiving => 2 | .skipping => 3

def TriggerMode.code : TriggerMode → Nat
  | .off => 0 | .event => 1 | .openEpoch => 2 | .flush => 3

def TriggerMode.ofCode : Nat → Option TriggerMode
  | 0 => some .off | 1 => some .event | 2 => some .openEpoch | 3 => some .flush | _ => none

def CounterGroup.ofCode : Nat → Option CounterGroup
  | 1 => some .lane | 2 => some .trigger | 3 => some .reassembly | 4 => some .commit | 5 => some .power | 6 => some .history
  | 7 => some .anomaly | 8 => some .store | 9 => some .link | _ => none

/-! ## Source addresses and lane fragments -/

/-- A source address in two bytes: unit in bits 0 to 9, domain in bits 10 to 15. -/
def SourceAddr.word (a : SourceAddr) : Nat := a.unit % 1024 + 1024 * (a.domain % 64)

def SourceAddr.ofWord (w : Nat) : SourceAddr := ⟨w / 1024 % 64, w % 1024⟩

/-- A lane fragment's fields (Formats, Lane fragment). -/
structure Fragment where
  kind : FragKind
  cls : Nat
  source : SourceAddr
  number : Nat
  payload : List Byte
  deriving DecidableEq, Repr

/-- The payload length that a fragment's header names: byte 5 + 256 × bit 7 of byte 1. -/
def fragmentLength (bytes : List Byte) : Nat :=
  fieldOf bytes 5 1 + 256 * (fieldOf bytes 1 1 / 128 % 2)

/-- The fields of a fragment that has passed its lane's checks. -/
def Fragment.parse (bytes : List Byte) : Option Fragment :=
  match FragKind.ofCode (fieldOf bytes 0 1) with
  | none => none
  | some k => some ⟨k, fieldOf bytes 1 1 % 4, SourceAddr.ofWord (fieldOf bytes 2 2), fieldOf bytes 4 1,
      (bytes.drop 6).take (fragmentLength bytes)⟩

/-! ## Record frames (R4) -/

/-- The 40 header bytes other than the state byte and the header check: offset 1, and offsets 4 to 39. -/
def headerTail (i : RecInfo) (seq epoch prevCheck : Nat) : List Byte :=
  le 4 seq ++ le 2 epoch ++ le 2 i.source.word ++ le 2 i.stream ++ le 1 i.cls ++ le 1 i.completion.code
    ++ le 1 (i.lane % 16 + if i.gap then 128 else 0) ++ le 1 i.missing ++ le 2 i.fragCount ++ le 4 i.payloadLen
    ++ le 6 i.firstTick ++ le 6 i.doneTick ++ le 4 prevCheck

/-- The 40-byte header with a given state byte; the header check is taken with the state byte as 0xFF. -/
def headerBytes (state : Byte) (i : RecInfo) (seq epoch prevCheck : Nat) : List Byte :=
  let kind := le 1 i.kind.code
  let rest := headerTail i seq epoch prevCheck
  state :: (kind ++ crcBytes (0xFF :: (kind ++ rest)) ++ rest)

/-- What the part reads of a header whose check passes. -/
structure Header where
  state : Byte
  kind : Nat
  seq : Nat
  epoch : Nat
  payloadLen : Nat
  firstTick : Nat
  prevCheck : Nat
  deriving DecidableEq, Repr

/-- Whether the header check passes, with the state byte taken as 0xFF (R4). -/
def headerPasses (page : List Byte) : Bool :=
  crcAgrees (0xFF :: ((page.drop 1).take 1 ++ (page.drop 4).take 36)) ((page.drop 2).take 2)

/-- The header at the start of a page, when its check passes. -/
def Header.parse (page : List Byte) : Option Header :=
  if headerPasses page then
    some ⟨page.headD 0xFF, fieldOf page 1 1, fieldOf page 4 4, fieldOf page 8 2, fieldOf page 20 4, fieldOf page 24 6,
      fieldOf page 36 4⟩
  else none

/-- The record states (R5). -/
inductive RecState where
  | erased | begun | valid | torn | released
  deriving DecidableEq, Repr

/-- How a state byte is read: 0x00 as RELEASED, any value outside the five as TORN (R5). -/
def RecState.read (b : Byte) : RecState :=
  if b = 0xFF then .erased
  else if b = 0x7F then .begun
  else if b = 0x3F then .valid
  else if b = 0x0F ∨ b = 0x00 then .released
  else .torn

/-- The state byte as LIST-RECORDS and VERIFY report it (Formats). -/
def stateByteReported (b : Byte) : Byte :=
  if b = 0xFF ∨ b = 0x7F ∨ b = 0x3F ∨ b = 0x1F ∨ b = 0x0F then b else if b = 0x00 then 0x0F else 0x1F

/-- The byte a RELEASE programs over a state byte: 0x0F over VALID and TORN, 0x00 over a value outside the five (R5). -/
def releaseByte (b : Byte) : Byte := if b = 0x3F ∨ b = 0x1F then 0x0F else 0x00

/-- R8: the dual sum advanced over one word. -/
def sumWord (ab : Nat × Nat) (w : Nat) : Nat × Nat :=
  let a := (ab.1 + w) % 65535
  (a, (ab.2 + a) % 65535)

/-- R8: the dual sum advanced over payload bytes, as 16-bit little-endian words; an odd last byte is a low byte. -/
def sumBytes : Nat × Nat → List Byte → Nat × Nat
  | ab, [] => ab
  | ab, [b] => sumWord ab b.toNat
  | ab, b :: c :: bs => sumBytes (sumWord ab (b.toNat + 256 * c.toNat)) bs

/-- R8: the sum's start from a seed: A its low 16 bits and B its high 16 bits, each kept in 0 to 65534. -/
def sumSeed (seed : Nat) : Nat × Nat := (seed % 65536 % 65535, seed / 65536 % 65536 % 65535)

/-- R8: the check is B × 65536 + A. -/
def sumCheck (ab : Nat × Nat) : Nat := ab.2 * 65536 + ab.1

/-- The payload check of a whole payload; an empty payload leaves the seed as its check (R8). -/
def payloadCheck (seed : Nat) (payload : List Byte) : Nat :=
  if payload.isEmpty then seed else sumCheck (sumBytes (sumSeed seed) payload)

/-- The frame pages of a record: ceil((48 + payload length) / 256) (R4). -/
def framePages (payloadLen : Nat) : Nat := (48 + payloadLen + 255) / 256

/-! ## Sector marks (R3) -/

def Mark.bytes (m : Mark) : List Byte :=
  let front := 0x7F :: (le 4 m.seq ++ le 2 m.epoch ++ le 1 m.firstRecord)
  front ++ crcBytes front

/-- The mark at the start of a page, when it reads IN_USE and its check passes. -/
def Mark.parse (page : List Byte) : Option Mark :=
  if page.headD 0xFF = 0x7F ∧ crcAgrees (page.take 8) ((page.drop 8).take 2) = true then
    some ⟨fieldOf page 1 4, fieldOf page 5 2, fieldOf page 7 1⟩
  else none

/-! ## History entries, anomaly entries and the part's own payloads -/

def Block.code : Block → Nat
  | .epoch => 1 | .power => 2 | .writer => 3

def Origin.byte : Origin → Nat
  | .lane l _ => 32 + l % 32
  | .trigger l => 64 + l % 32
  | .service => 96
  | .part b => 128 + b.code

def Origin.sourceWord : Origin → Nat
  | .lane _ a => a.word
  | _ => 0

/-- A history entry in 40 bytes. -/
def HEntry.bytes (e : HEntry) : List Byte :=
  le 4 e.seq ++ le 6 e.tick ++ le 1 e.origin.byte ++ le 2 e.origin.sourceWord ++ le 2 e.code ++ le 1 e.data.length
    ++ (e.data ++ List.replicate (24 - e.data.length) 0)

/-- An anomaly entry in 16 bytes. -/
def Anomaly.bytes (a : Anomaly) : List Byte :=
  let flags := a.lane.getD 0 % 16 + (if a.lane.isSome then 16 else 0) + (if a.source.isSome then 32 else 0)
    + if a.stream.isSome then 64 else 0
  le 1 a.kind.code ++ le 1 flags ++ le 2 ((a.source.map SourceAddr.word).getD 0) ++ le 2 (a.stream.getD 0)
    ++ le 6 a.tick ++ le 4 a.detail

/-- The HISTORY record's payload: the frozen ring, oldest first. -/
def historyPayload (ring : List HEntry) : List Byte := le 2 ring.length ++ ring.flatMap HEntry.bytes

/-- The EVENTS record's payload (R150). -/
def eventsPayload (h : History) : List Byte :=
  le 2 h.list.length ++ le 2 h.lostEvents ++ le 4 ((h.list.getLast?.map HEntry.seq).getD 0) ++ h.list.flatMap HEntry.bytes

/-- The ANOMALIES record's payload (R154). -/
def anomaliesPayload (q : Anomalies) : List Byte :=
  le 2 q.entries.length ++ le 2 q.lost ++ q.entries.flatMap Anomaly.bytes

/-- The anchor's four fields, or zeros when it is absent. -/
def anchorBytes : Option Anchor → List Byte
  | none => List.replicate 20 0
  | some a => le 8 a.seconds ++ le 4 a.microseconds ++ le 6 a.tick ++ le 2 a.wrap

/-! ## Settings in their image form (Formats, Configuration image) -/

def LaneSettings.bytes (l : LaneSettings) : List Byte :=
  le 1 l.mode.code ++ le 2 l.divisor ++ le 1 ((if l.parityEven then 1 else 0) + if l.report then 2 else 0)

def TriggerSettings.bytes (t : TriggerSettings) : List Byte :=
  [boolByte t.activeHigh] ++ le 1 t.filterCode ++ le 1 t.prescale ++ le 1 t.mode.code

def DomainEntry.bytes (e : DomainEntry) : List Byte :=
  le 1 ((if e.valid then 1 else 0) + if e.opensEpoch then 2 else 0) ++ le 2 e.base ++ le 1 e.spanExponent

def Primary.bytes (p : Primary) : List Byte :=
  le 1 ((if p.enabled then 1 else 0) + if p.opensEpoch then 2 else 0) ++ le 1 p.domain ++ le 1 p.spanExponent ++ [0]

/-- The block limit byte: 0 means 256 (R32). -/
def StreamSettings.bytes (t : StreamSettings) : List Byte := [boolByte t.enabled] ++ le 1 (t.blockLimit % 256)

def AgingSettings.bytes (a : AgingSettings) : List Byte := le 2 a.first ++ le 2 a.last ++ le 1 a.interval ++ le 1 a.limit

def BudgetSettings.bytes (b : BudgetSettings) : List Byte :=
  le 2 b.scale ++ le 2 b.capacitance ++ le 2 b.floor ++ le 4 b.reserve ++ le 2 b.pageCost ++ le 1 b.ceiling

def AdcSettings.bytes (a : AdcSettings) : List Byte :=
  le 1 a.interval ++ le 2 a.failThreshold ++ le 2 a.restoreThreshold ++ le 1 a.count

def EpochSettings.bytes (e : EpochSettings) : List Byte :=
  le 2 e.window ++ le 1 e.quiet ++ le 1 e.grace ++ le 1 e.holdupGrace ++ [boolByte e.powerOpens]
    ++ le 1 (if e.autoRearm then 1 else 2) ++ le 2 e.closeReserve

/-- Every setting that CONFIGURE writes, in its active value (R19). -/
structure Settings where
  lanes : Table LaneSettings 16
  triggers : Table TriggerSettings 6
  domains : Table DomainEntry 64
  primary : Primary
  streams : Table StreamSettings 512
  aging : AgingSettings
  pool : Nat
  budget : BudgetSettings
  adc : AdcSettings
  epoch : EpochSettings
  deriving DecidableEq, Repr

/-- The 1,408 bytes of the sections, in order. -/
def Settings.bytes (c : Settings) : List Byte :=
  c.lanes.list.flatMap LaneSettings.bytes ++ c.triggers.list.flatMap TriggerSettings.bytes
    ++ c.domains.list.flatMap DomainEntry.bytes ++ c.primary.bytes ++ c.streams.list.flatMap StreamSettings.bytes
    ++ c.aging.bytes ++ le 2 c.pool ++ c.budget.bytes ++ c.adc.bytes ++ c.epoch.bytes

/-- The whole image: image sequence, section length, sections, CRC-16 (1,416 bytes). -/
def imageBytes (seq : Nat) (c : Settings) : List Byte :=
  let front := le 4 seq ++ le 2 1408 ++ c.bytes
  front ++ crcBytes front

/-- Whether the bytes at the start of sector 0 are an image: its length is 1,408 and its CRC-16 passes (R19). -/
def imagePasses (image : List Byte) : Bool :=
  decide (fieldOf image 4 2 = 1408) && crcAgrees (image.take 1414) ((image.drop 1414).take 2)

/-- The settings read back. A code that its table does not give reads as the setting's default; no image of the part holds
one (log 10). -/
def laneOfBytes (b : List Byte) : LaneSettings :=
  ⟨(LaneMode.ofCode (fieldOf b 0 1)).getD .clocked, fieldOf b 1 2, fieldOf b 3 1 % 2 == 1, fieldOf b 3 1 / 2 % 2 == 1⟩

def triggerOfBytes (b : List Byte) : TriggerSettings :=
  ⟨fieldOf b 0 1 == 1, fieldOf b 1 1, fieldOf b 2 1, (TriggerMode.ofCode (fieldOf b 3 1)).getD .off⟩

def domainOfBytes (b : List Byte) : DomainEntry :=
  ⟨fieldOf b 0 1 % 2 == 1, fieldOf b 0 1 / 2 % 2 == 1, fieldOf b 1 2, fieldOf b 3 1⟩

def primaryOfBytes (b : List Byte) : Primary :=
  ⟨fieldOf b 0 1 % 2 == 1, fieldOf b 0 1 / 2 % 2 == 1, fieldOf b 1 1, fieldOf b 2 1⟩

/-- A block limit byte: 1 to 255 mean themselves and 0 means 256 (R32). -/
def blockLimitOf (b : Nat) : Nat := if b = 0 then 256 else b

def streamOfBytes (b : List Byte) : StreamSettings := ⟨fieldOf b 0 1 == 1, blockLimitOf (fieldOf b 1 1)⟩

def agingOfBytes (b : List Byte) : AgingSettings := ⟨fieldOf b 0 2, fieldOf b 2 2, fieldOf b 4 1, fieldOf b 5 1⟩

def budgetOfBytes (b : List Byte) : BudgetSettings :=
  ⟨fieldOf b 0 2, fieldOf b 2 2, fieldOf b 4 2, fieldOf b 6 4, fieldOf b 10 2, fieldOf b 12 1⟩

def adcOfBytes (b : List Byte) : AdcSettings := ⟨fieldOf b 0 1, fieldOf b 1 2, fieldOf b 3 2, fieldOf b 5 1⟩

def epochOfBytes (b : List Byte) : EpochSettings :=
  ⟨fieldOf b 0 2, fieldOf b 2 1, fieldOf b 3 1, fieldOf b 4 1, fieldOf b 5 1 == 1, fieldOf b 6 1 == 1, fieldOf b 7 2⟩

/-- A table of `n` entries of `w` bytes each. -/
def tableOfBytes {α : Type} (n w : Nat) (read : List Byte → α) (b : List Byte) : Table α n :=
  ⟨(List.range n).map fun i => read ((b.drop (w * i)).take w), by rw [List.length_map, List.length_range]⟩

/-- The settings of an image's sections. -/
def Settings.ofBytes (b : List Byte) : Settings where
  lanes := tableOfBytes 16 4 laneOfBytes (b.take 64)
  triggers := tableOfBytes 6 4 triggerOfBytes ((b.drop 64).take 24)
  domains := tableOfBytes 64 4 domainOfBytes ((b.drop 88).take 256)
  primary := primaryOfBytes ((b.drop 344).take 4)
  streams := tableOfBytes 512 2 streamOfBytes ((b.drop 348).take 1024)
  aging := agingOfBytes ((b.drop 1372).take 6)
  pool := fieldOf b 1378 2
  budget := budgetOfBytes ((b.drop 1380).take 13)
  adc := adcOfBytes ((b.drop 1393).take 6)
  epoch := epochOfBytes ((b.drop 1399).take 9)

end Sys2Proof.Machine
end

