-- ==== Sys2Proof/Machine/Operands.lean ====
section
/-! DEFINITION. Machine/Operands.lean: the forms of a request: its kind code and its body fields, from the operands of a
command and from the bytes of a frame (Formats, Request bodies; R178, test 3). Both ways build the same `Request`. -/

namespace Sys2Proof.Machine

/-! ## Kind codes -/

/-- The kind byte of a request. -/
def Request.kind : Request → Nat
  | .unknown k | .malformed k => k
  | .identify => 0x01
  | .status => 0x02
  | .configure _ => 0x03
  | .readConfig _ => 0x04
  | .saveConfig => 0x05
  | .setTime _ _ | .clearTime => 0x06
  | .getTime => 0x07
  | .log _ _ => 0x08
  | .openEpoch => 0x09
  | .flush _ => 0x0A
  | .rearm => 0x0B
  | .listRecords _ _ => 0x0C
  | .readRecord _ _ _ => 0x0D
  | .verify _ => 0x0E
  | .release _ _ => 0x0F
  | .format => 0x10
  | .readStream _ _ => 0x11
  | .takeAnomalies _ _ => 0x12
  | .readHistory _ _ => 0x13
  | .counters _ _ _ => 0x14
  | .wait _ _ => 0x15
  | .restart _ => 0x16

/-- The largest kind code of the catalogue; the smallest is 1. -/
def largestKind : Nat := 0x16

/-! ## Requests whose fields have codes

A value that its field has no code for makes the body unreadable (R178, test 3). -/

/-- FLUSH: NORMAL 1, NONE 2. -/
def Request.ofFlush (choice : Nat) : Request :=
  if choice = 1 then .flush false else if choice = 2 then .flush true else .malformed 0x0A

/-- COUNTERS: a group with a code. -/
def Request.ofCounters (group index : Nat) (take : Bool) : Request :=
  match CounterGroup.ofCode group with
  | some g => .counters g index take
  | none => .malformed 0x14

/-- WAIT: RECORD 1 with s, EPOCH_CHANGE 2 with a state code, ANOMALY_PRESENT 3 with 0. -/
def Request.ofWait (condition argument timeout : Nat) : Request :=
  if condition = 1 then .wait (.record argument) timeout
  else if condition = 2 then
    match EpochState.ofCode argument with
    | some x => .wait (.epochChange x) timeout
    | none => .malformed 0x15
  else if condition = 3 ∧ argument = 0 then .wait .anomalyPresent timeout
  else .malformed 0x15

/-- RESTART: no 0, yes 1. -/
def Request.ofRestart (force : Nat) : Request :=
  if force = 0 then .restart false else if force = 1 then .restart true else .malformed 0x16

/-- The yes-or-no byte of a mode field: PEEK 1, TAKE 2. -/
def takeOfCode (mode : Nat) : Option Bool := if mode = 1 then some false else if mode = 2 then some true else none

/-! ## CONFIGURE and READ-CONFIG bodies -/

/-- A CONFIGURE entry of a target, read from its image form; none when its length is not the target's, or when the index is
not the 0 that a target without an index has. -/
def ConfigWrite.ofBytes (target index : Nat) (e : List Byte) : Option ConfigWrite :=
  match target, e.length with
  | 1, 4 => some (.lane index (fieldOf e 0 1) (fieldOf e 1 2) (fieldOf e 3 1 % 2 == 1) (fieldOf e 3 1 / 2 % 2 == 1))
  | 2, 4 => some (.trigger index (fieldOf e 0 1) (fieldOf e 1 1) (fieldOf e 2 1) (fieldOf e 3 1))
  | 3, 4 => some (.domain index (fieldOf e 0 1 % 2 == 1) (fieldOf e 0 1 / 2 % 2 == 1) (fieldOf e 1 2) (fieldOf e 3 1))
  | 4, 4 => if index = 0 then
      some (.primary (fieldOf e 0 1 % 2 == 1) (fieldOf e 0 1 / 2 % 2 == 1) (fieldOf e 1 1) (fieldOf e 2 1)) else none
  | 5, 4 => some (.streams index (fieldOf e 0 2) (fieldOf e 2 1) (fieldOf e 3 1))
  | 6, 6 => if index = 0 then some (.aging (fieldOf e 0 2) (fieldOf e 2 2) (fieldOf e 4 1) (fieldOf e 5 1)) else none
  | 7, 2 => if index = 0 then some (.pool (fieldOf e 0 2)) else none
  | 8, 13 => if index = 0 then
      some (.budget (fieldOf e 0 2) (fieldOf e 2 2) (fieldOf e 4 2) (fieldOf e 6 4) (fieldOf e 10 2) (fieldOf e 12 1))
      else none
  | 9, 6 => if index = 0 then some (.adc (fieldOf e 0 1) (fieldOf e 1 2) (fieldOf e 3 2) (fieldOf e 5 1)) else none
  | 10, 9 => if index = 0 then
      some (.epoch (fieldOf e 0 2) (fieldOf e 2 1) (fieldOf e 3 1) (fieldOf e 4 1) (fieldOf e 5 1) (fieldOf e 6 1)
        (fieldOf e 7 2)) else none
  | _, _ => none

/-- A READ-CONFIG target with its index and count; the count is 1 except for STREAMS. -/
def ConfigRead.ofFields (target index count : Nat) : Option ConfigRead :=
  if target = 5 then some (.streams index count)
  else if count ≠ 1 then none
  else match target with
    | 1 => some (.lane index)
    | 2 => some (.trigger index)
    | 3 => some (.domain index)
    | 4 => if index = 0 then some .primary else none
    | 6 => if index = 0 then some .aging else none
    | 7 => if index = 0 then some .pool else none
    | 8 => if index = 0 then some .budget else none
    | 9 => if index = 0 then some .adc else none
    | 10 => if index = 0 then some .epoch else none
    | _ => none

/-! ## From the bytes of a frame -/

/-- The request of a kind and a body, when the body has the kind's length and its fields can be read. A SET-TIME has the 13
bytes that Formats lays out for a CLEAR too: one that carries the operation alone is not read, the model's choice where R139
gives the other fields to a SET only (log 29). -/
def Request.read (kind : Nat) (b : List Byte) : Option Request :=
  match kind, b.length with
  | 0x01, 0 => some .identify
  | 0x02, 0 => some .status
  | 0x03, n => if 3 ≤ n then (ConfigWrite.ofBytes (fieldOf b 0 1) (fieldOf b 1 2) (b.drop 3)).map .configure else none
  | 0x04, 5 => (ConfigRead.ofFields (fieldOf b 0 1) (fieldOf b 1 2) (fieldOf b 3 2)).map .readConfig
  | 0x05, 0 => some .saveConfig
  | 0x06, 13 => match fieldOf b 0 1 with
    | 1 => some (.setTime (fieldOf b 1 8) (fieldOf b 9 4))
    | 2 => some .clearTime
    | _ => none
  | 0x07, 0 => some .getTime
  | 0x08, n => if n = 3 + fieldOf b 2 1 then some (.log (fieldOf b 0 2) (b.drop 3)) else none
  | 0x09, 0 => some .openEpoch
  | 0x0A, 1 => some (.ofFlush (fieldOf b 0 1))
  | 0x0B, 0 => some .rearm
  | 0x0C, 5 => some (.listRecords (fieldOf b 0 4) (fieldOf b 4 1))
  | 0x0D, 10 => some (.readRecord (fieldOf b 0 4) (fieldOf b 4 4) (fieldOf b 8 2))
  | 0x0E, 4 => some (.verify (fieldOf b 0 4))
  | 0x0F, 8 => some (.release (fieldOf b 0 4) (fieldOf b 4 4))
  | 0x10, 0 => some .format
  | 0x11, 3 => (takeOfCode (fieldOf b 2 1)).map (.readStream (fieldOf b 0 2))
  | 0x12, 2 => (takeOfCode (fieldOf b 1 1)).map (.takeAnomalies (fieldOf b 0 1))
  | 0x13, 5 => some (.readHistory (fieldOf b 0 4) (fieldOf b 4 1))
  | 0x14, 3 => (takeOfCode (fieldOf b 2 1)).map (.ofCounters (fieldOf b 0 1) (fieldOf b 1 1))
  | 0x15, 7 => some (.ofWait (fieldOf b 0 1) (fieldOf b 1 4) (fieldOf b 5 2))
  | 0x16, 1 => some (.ofRestart (fieldOf b 0 1))
  | _, _ => none

/-- The request that a frame's kind and body make (R178, tests 1 and 3). -/
def Request.ofFrame (kind : Nat) (body : List Byte) : Request :=
  if kind = 0 ∨ largestKind < kind then .unknown kind else (Request.read kind body).getD (.malformed kind)

end Sys2Proof.Machine
end

