-- ==== Sys2Proof/Machine/Ops.lean ====
section
/-! DEFINITION. Machine/Ops.lean: the named operations over the part's memories, queues and registers that the blocks share:
reading and writing the flash and the tables, handing replies to the transmitter, posting anomalies, placing history
entries, and the parked WAIT. -/

namespace Sys2Proof.Machine

/-! ## Pages of the flash (R1) -/

/-- Pages of the whole device: 512 sectors of 256. -/
def devicePages : Nat := 131072

/-- The sector that follows a sector in log order: sector 1 follows sector 511 (R1). -/
def nextSector (s : Nat) : Nat := if s = 511 then 1 else s + 1

/-- The next page: after page 255 of a sector, page 0 of the sector that follows (R1). -/
def nextPage (p : Nat) : Nat := if p % 256 = 255 then nextSector (p / 256) * 256 else p + 1

/-- The next page of a frame: mark pages are skipped (R4). -/
def nextFramePage (p : Nat) : Nat := let q := nextPage p; if q % 256 = 0 then q + 1 else q

/-- The 256 bytes of a page as the flash holds them. -/
def State.page (s : State) (p : Nat) : List Byte := Memory.load flashBlank s.flash (p * 256) 256

/-- One byte of the flash. -/
def State.flashByte (s : State) (a : Nat) : Byte := Memory.read flashBlank s.flash a

/-- One byte of the block memory. -/
def State.poolByte (s : State) (a : Nat) : Byte := Memory.read poolBlank s.pool a

/-- The flash with a program's bytes in place: each byte takes the value being programmed (R6, R82). -/
def State.programPage (s : State) (p : Nat) (bytes : List Byte) : State :=
  { s with flash := Memory.store flashBlank s.flash (p * 256) bytes }

/-- The flash with a sector erased: every byte reads 0xFF (R1). -/
def State.eraseSector (s : State) (sector : Nat) : State :=
  { s with flash := Memory.clear s.flash (sector * 65536) 65536 }

/-- The former bytes of a page with, byte by byte, the programmed or the former value, as a free value says (R6). -/
def interruptedBytes (k : Nat) (a : Nat) : List Byte → List Byte → List Byte
  | new :: ns, old :: os =>
    (if Config.interruptedByteTaken k a then new else old) :: interruptedBytes k (a + 1) ns os
  | _, _ => []

/-- What an interrupted, failed or timed-out operation leaves: each byte at its former value or at the value being
programmed; for an erase, at its former value or 0xFF; a page read leaves everything (R6, log 3). -/
def State.interruptOp (s : State) (op : FlashOp) : State :=
  match op.kind with
  | .pageRead => s
  | .erase => { s with
      flash := s.flash.filter fun c => decide (c.1 / 65536 ≠ op.page / 256) || !Config.interruptedByteTaken s.freeIndex c.1
      freeIndex := s.freeIndex + 1 }
  | _ => { s with
      flash := Memory.store flashBlank s.flash (op.page * 256)
        (interruptedBytes s.freeIndex (op.page * 256) op.data
          (Memory.load flashBlank s.flash (op.page * 256) op.data.length))
      freeIndex := s.freeIndex + 1 }

/-- One more than a 32-bit sequence; past its largest value a free value (log 4). -/
def State.seqAfter (s : State) (n : Nat) : Nat :=
  if n < max32 then n + 1 else (Config.sequenceAfterMax s.freeIndex).toNat

/-! ## Tables -/

def State.lane (s : State) (l : LaneNo) : Lane := s.lanes.get l
def State.setLane (s : State) (l : LaneNo) (v : Lane) : State := { s with lanes := s.lanes.set l.val v }
def State.line (s : State) (l : LineNo) : TriggerLine := s.lines.get l
def State.setLine (s : State) (l : LineNo) (v : TriggerLine) : State := { s with lines := s.lines.set l.val v }

/-- The stream at an index; an index past 511 names no stream, and nothing is read there. -/
def State.stream (s : State) (i : Nat) : Stream := s.streams.getD i (Stream.start StreamSettings.default)
def State.setStream (s : State) (i : Nat) (v : Stream) : State := { s with streams := s.streams.set i v }

def State.dir (s : State) (sector : Nat) : DirEntry := s.directory.getD sector .unknown
def State.setDir (s : State) (sector : Nat) (e : DirEntry) : State := { s with directory := s.directory.set sector e }

/-! ## Replies (R176, R177) -/

/-- A reply handed to the transmitter joins the replies it has still to send. -/
def State.handReply (s : State) (r : Reply) : State := { s with link := { s.link with tx := s.link.tx ++ [r] } }

/-- The reply frame's bytes: request kind + 0x80 (in one byte, log 11), tag, status, body length, body, CRC-16. -/
def Reply.frame (r : Reply) : List Byte :=
  let front := le 1 (r.kind + 128) ++ [r.tag] ++ le 1 r.status.code ++ le 2 r.body.length ++ r.body
  front ++ crcBytes front

/-! ## The parked WAIT (R185) -/

/-- The kind code of WAIT. -/
def waitKind : Nat := 0x15

/-- The parked WAIT is answered, its timer stops with it, and nothing is parked. -/
def State.answerWait (s : State) (p : Parked) (status : Status) (body : List Byte) : State :=
  ({ s with link := { s.link with parked := none } }).handReply ⟨waitKind, p.tag, status, body, false, false⟩

/-- Whether a WAIT's condition holds (R184). -/
def State.waitHolds (s : State) : WaitCond → Bool
  | .record a => decide (a < s.store.lastSeq)
  | .epochChange x => decide (s.epoch.state ≠ x)
  | .anomalyPresent => !s.anomalies.entries.isEmpty

/-- The value a condition reads, as a reply's body (R185). -/
def State.waitBody (s : State) : WaitCond → List Byte
  | .record _ => le 4 s.store.lastSeq
  | .epochChange _ => le 1 s.epoch.state.code ++ le 2 s.epoch.number
  | .anomalyPresent => le 1 s.anomalies.entries.length

/-- Last sequence has changed: a parked RECORD wait whose condition now holds is answered OK. -/
def State.tellRecord (s : State) : State :=
  match s.link.parked with
  | some ⟨tag, .record a, t⟩ =>
    if s.waitHolds (.record a) then s.answerWait ⟨tag, .record a, t⟩ .ok (s.waitBody (.record a)) else s
  | _ => s

/-- The epoch state has changed. -/
def State.tellEpoch (s : State) : State :=
  match s.link.parked with
  | some ⟨tag, .epochChange x, t⟩ =>
    if s.waitHolds (.epochChange x) then s.answerWait ⟨tag, .epochChange x, t⟩ .ok (s.waitBody (.epochChange x)) else s
  | _ => s

/-- The anomaly queue has gone from empty to one entry. -/
def State.tellAnomaly (s : State) : State :=
  match s.link.parked with
  | some ⟨tag, .anomalyPresent, t⟩ => s.answerWait ⟨tag, .anomalyPresent, t⟩ .ok (s.waitBody .anomalyPresent)
  | _ => s

/-! ## The anomaly queue (R152) -/

def anomalyCapacity : Nat := 64

/-- A post: the entry joins the queue and is counted, or, with 64 entries, is dropped and counted lost. -/
def State.post (s : State) (a : Anomaly) : State :=
  if s.anomalies.entries.length < anomalyCapacity then
    let t := { s with anomalies := { s.anomalies with
      entries := s.anomalies.entries ++ [a], posted := satInc max32 s.anomalies.posted } }
    if s.anomalies.entries.isEmpty then t.tellAnomaly else t
  else { s with anomalies := { s.anomalies with lost := satInc max16 s.anomalies.lost } }

/-- A post with no lane and no source: its kind, its stream if it has one, and its detail, at the present tick. -/
def State.postPlain (s : State) (kind : AnomalyKind) (stream : Option Nat) (detail : Nat) : State :=
  s.post ⟨kind, none, none, stream, s.tick, detail⟩

/-! ## The history unit (R142, R146 to R148) -/

def ringCapacity : Nat := 1024
def listCapacity : Nat := 256

/-- The sequence after a history sequence: from 2^32 − 1 it is 1 (R142). -/
def nextHistorySeq (n : Nat) : Nat := if n ≥ max32 then 1 else n + 1

/-- Where an entry went (R144). -/
inductive Place where
  | ring | list | dropped
  deriving DecidableEq, Repr

/-- Where an entry handed now will go (R146). -/
def History.placeOf (h : History) : Place :=
  if h.frozen then (if h.list.length < listCapacity then .list else .dropped) else .ring

/-- An entry joins the newest end of the ring; from a full ring the oldest is removed and counted. -/
def History.pushRing (h : History) (e : HEntry) : History :=
  if h.ring.length < ringCapacity then { h with ring := h.ring ++ [e] }
  else { h with ring := h.ring.drop 1 ++ [e], overwrites := satInc max32 h.overwrites }

/-- One entry is placed whole (R146): admitted to the ring or the list with the next sequence, or dropped and counted. -/
def History.place (h : History) (tick : Nat) (origin : Origin) (code : Nat) (data : List Byte) : History :=
  let e : HEntry := ⟨h.nextSeq, tick, origin, code, data⟩
  let counted (g : History) : History :=
    { g with nextSeq := nextHistorySeq h.nextSeq, admitted := satInc max32 h.admitted }
  match h.placeOf with
  | .ring => counted (h.pushRing e)
  | .list => counted { h with list := h.list ++ [e] }
  | .dropped => { h with lostEvents := satInc max16 h.lostEvents, dropped := satInc max32 h.dropped }

def State.placeEvent (s : State) (tick : Nat) (origin : Origin) (code : Nat) (data : List Byte) : State :=
  { s with history := s.history.place tick origin code data }

/-- One of the part's own events, at the present tick (R145). -/
def State.ownEvent (s : State) (block : Block) (code : Nat) (data : List Byte) : State :=
  s.placeEvent s.tick (.part block) code data

/-- The freeze at an opening (R147). -/
def History.freeze (h : History) : History := { h with frozen := true, list := [], lostEvents := 0 }

/-- The newest ring sequence, 0 for an empty ring. -/
def History.newestRing (h : History) : Nat := (h.ring.getLast?.map HEntry.seq).getD 0

/-- The merge at rearm: the list's entries follow the ring's, the list is emptied, the ring is live (R148). -/
def History.merge (h : History) : History :=
  { h.list.foldl History.pushRing h with list := [], frozen := false }

/-! ## The free list (R52, R55) -/

/-- Blocks return to the tail of the free list, in chain order. -/
def State.returnBlocks (s : State) (blocks : List Nat) : State := { s with freeList := s.freeList ++ blocks }

end Sys2Proof.Machine
end

