-- ==== Sys2Proof/Machine/Log.lean ====
section
/-! DEFINITION. Machine/Log.lean: the geometry of the capture log: the order of the in-use sectors, page counts, and the step
from one record to the next. -/

namespace Sys2Proof.Machine

/-- An in-use sector with its mark and its first-record sequence. -/
structure InUse where
  sector : Nat
  mark : Mark
  firstSeq : Option Nat
  deriving DecidableEq, Repr

/-- A sector takes its place among in-use sectors ordered by sector sequence; before those of an equal sequence, an order that
the manual does not give (log 43). -/
def insertInUse (x : InUse) : List InUse → List InUse
  | [] => [x]
  | y :: ys => if x.mark.seq ≤ y.mark.seq then x :: y :: ys else y :: insertInUse x ys

/-- The in-use sectors of a directory in log order, smallest sector sequence first (R1, R21). -/
def inUseOf (directory : List DirEntry) : List InUse :=
  (directory.zipIdx).foldl (fun acc e =>
    match e.1 with
    | .inUse m f => insertInUse ⟨e.2, m, f⟩ acc
    | _ => acc) []

def State.inUse (s : State) : List InUse := inUseOf s.directory.list

/-- The in-use sectors that follow a sector in log order; none when the sector is not in use. -/
def State.inUseAfter (s : State) (sector : Nat) : List InUse :=
  match s.dir sector with
  | .inUse m _ => s.inUse.filter fun x => decide (m.seq < x.mark.seq)
  | _ => []

/-- The page of the first record frame that begins in the first of these sectors that has one (R22). -/
def firstRecordPage : List InUse → Option Nat
  | [] => none
  | x :: xs => if x.mark.firstRecord = 0 then firstRecordPage xs else some (x.sector * 256 + x.mark.firstRecord)

/-- R4: the pages a record of `payloadLen` bytes takes from the tail on: its frame pages and one for each sector mark that
must be programmed because it enters a new sector, the case where it starts at page 0 included. -/
def pageCount (tail payloadLen : Nat) : Nat :=
  let k := framePages payloadLen
  let room := if tail % 256 = 0 then 255 else 256 - tail % 256
  let marks := (if tail % 256 = 0 then 1 else 0) + (k - room + 254) / 255
  k + marks

/-- One step of a frame through the log (R22): the page after `p`, mark pages skipped, with the sectors that then follow in
log order. Entering a sector that is not the next in-use sector in order ends the log at that sector's page 0. -/
def stepPage (p : Nat) (rest : List InUse) : Nat × List InUse ⊕ Nat :=
  let q := nextPage p
  if q % 256 = 0 then
    match rest with
    | x :: xs => if x.sector = q / 256 then .inl (q + 1, xs) else .inr q
    | [] => .inr q
  else .inl (q, rest)

/-- `k` frame pages counted forward from `p`: the page after them, or the page 0 where the log ends. -/
def stepPages : Nat → Nat → List InUse → Nat × List InUse ⊕ Nat
  | 0, p, rest => .inl (p, rest)
  | k + 1, p, rest =>
    match stepPage p rest with
    | .inl (q, rest') => stepPages k q rest'
    | .inr q => .inr q

/-- The position that is a record's page count on from `p`, in the log as the directory now shows it: the step of lookup and
of a listing (R11, R182). -/
def State.afterRecord (s : State) (p payloadLen : Nat) : Option Nat :=
  match stepPages (framePages payloadLen) p (s.inUseAfter (p / 256)) with
  | .inl (q, _) => some q
  | .inr _ => none

/-- What one header page says to a walk that last accepted sequence `prev` (R22): nothing begins here (`whole` when the whole
page reads 0xFF, so that it is no torn header page); a header that fails its check or does not follow; or a record. -/
inductive HeaderAt where
  | erased (whole : Bool)
  | bad
  | record (h : Header)
  deriving DecidableEq, Repr

/-- R22: a page read as the header of the next record of the log. -/
def headerAt (prev : Option Nat) (page : List Byte) : HeaderAt :=
  if page.headD 0xFF = 0xFF then .erased (page.all fun b => decide (b = 0xFF))
  else match Header.parse page with
    | none => .bad
    | some h => if prev.any (fun x => decide (h.seq ≤ x)) then .bad else .record h

/-- Where the walk goes on after a page whose sector is lost to it: the next in-use sector's first-record page. -/
def State.skipSector (s : State) (p : Nat) : Option Nat := firstRecordPage (s.inUseAfter (p / 256))

/-- Whether a state counts as stored: VALID or RELEASED. -/
def RecState.kept (x : RecState) : Bool := decide (x = .valid) || decide (x = .released)

/-- Whether a record of this state can be the oldest: VALID or TORN (R7). -/
def RecState.unreleased (x : RecState) : Bool := decide (x = .valid) || decide (x = .torn)

/-! ## The records present (R7, R8, R16, R17) -/

/-- The state of a record of the log, as its state byte in the flash reads (R5). -/
def State.recordState (s : State) (r : LogRecord) : RecState := RecState.read (s.flashByte (r.page * 256))

/-- Whether a record whose state passes a test is present in the log. -/
def State.recordPresent (s : State) (test : RecState → Bool) : Bool := s.store.records.any fun r => test (s.recordState r)

/-- Whether a VALID or RELEASED record is present in the log (R8). -/
def State.keptPresent (s : State) : Bool := s.recordPresent RecState.kept

/-- Whether a RELEASED record is present in the log (R7). -/
def State.releasedPresent (s : State) : Bool := s.recordPresent fun x => decide (x = .released)

/-- R16: the oldest record after sequence `seq`: the next VALID or TORN one in log order, or none when the tail is reached. -/
def State.oldestAfter (s : State) (seq : Nat) : Option (Nat × Nat) :=
  (s.store.records.find? fun r => decide (seq < r.seq) && (s.recordState r).unreleased).map fun r => (r.seq, r.page)

/-- R17: the nearest earlier VALID or RELEASED record present before sequence `seq`. -/
def State.keptBefore (s : State) (seq : Nat) : Option LogRecord :=
  (s.store.records.filter fun r => decide (r.seq < seq) && (s.recordState r).kept).getLast?

/-- The records that begin in a sector are no longer present once it is erased. -/
def State.dropRecords (s : State) (sector : Nat) : State :=
  { s with store := { s.store with records := s.store.records.filter fun r => decide (r.page / 256 ≠ sector) } }

/-! ## Lookup (R11) -/

/-- The in-use sector with the largest first-record sequence not above `seq`: that sequence and its first-record page. -/
def bestSector (seq : Nat) : List InUse → Option (Nat × Nat)
  | [] => none
  | x :: xs =>
    let rest := bestSector seq xs
    match x.firstSeq with
    | some f =>
      if f ≤ seq ∧ x.mark.firstRecord ≠ 0 ∧ rest.all (fun y => decide (y.1 < f)) = true then
        some (f, x.sector * 256 + x.mark.firstRecord)
      else rest
    | none => rest

/-- What lookup does with one header page. -/
inductive LookupStep where
  | found (h : Header)
  | notFound
  | next (page : Nat)
  deriving DecidableEq, Repr

/-- The page at which lookup of a sequence begins; none answers NOT_FOUND. -/
def State.lookupStart (s : State) (seq : Nat) : Option Nat :=
  match bestSector seq s.inUse with
  | some (_, p) => if p = s.store.tail then none else some p
  | none => none

/-- R11: one header read by lookup at page `p`. -/
def State.lookupTake (s : State) (seq p : Nat) (page : List Byte) : LookupStep :=
  if page.headD 0xFF = 0xFF then .notFound
  else match Header.parse page with
    | none => .notFound
    | some h =>
      if h.seq = seq then .found h
      else if seq < h.seq then .notFound
      else match s.afterRecord p h.payloadLen with
        | some q => if q = s.store.tail then .notFound else .next q
        | none => .notFound

end Sys2Proof.Machine
end

