-- ==== Sys2Proof/Machine/Flags.lean ====
section
/-! DEFINITION. Machine/Flags.lean: the flags the part computes: LOW and EXHAUSTED with erasable space, eligibility and the
erased run (R7, R13, R14), the READY output (R160), the conditions an opening and a rearm test (R110, R126). -/

namespace Sys2Proof.Machine

/-- Whether a FORMAT is in progress (R13, R18). -/
def State.formatting (s : State) : Bool :=
  match s.link.server with
  | .working (.format _) _ => true
  | _ => false

/-- How many sectors on from `a` sector `b` lies, in index order. -/
def sectorsOn (a b : Nat) : Nat := (b + 511 - a) % 511

/-- R14: the sector holds a byte of the writer's record in flight, from its admission until its state byte reads VALID: it
lies between the record's first page (the tail while nothing of it is programmed) and the tail. -/
def State.inFlightHolds (s : State) (sector : Nat) : Bool :=
  match s.writer.inFlight with
  | none => false
  | some f =>
    let first := f.start.getD s.store.tail / 256
    decide (sectorsOn first sector ≤ sectorsOn first (s.store.tail / 256))

/-- R14: every page of an in-use sector precedes, in log order, the first page of the oldest record; when oldest is none,
the tail. -/
def State.precedesOldest (s : State) (sector : Nat) (m : Mark) : Bool :=
  match s.store.oldest with
  | some (_, p) => match s.dir (p / 256) with
    | .inUse o _ => decide (m.seq < o.seq)
    | _ => false
  | none =>
    if s.store.tail % 256 = 0 then true
    else match s.dir (s.store.tail / 256) with
      | .inUse t _ => decide (m.seq < t.seq) && decide (sector ≠ s.store.tail / 256)
      | _ => true

/-- R14: the sector is eligible for erase. -/
def State.eligible (s : State) (sector : Nat) : Bool :=
  decide (sector ≠ s.store.tail / 256) && !s.inFlightHolds sector &&
    match s.dir sector with
    | .damaged => true
    | .inUse m _ => s.precedesOldest sector m
    | _ => false

/-- The sector that follows the erased run: the run ends on a sector boundary. -/
def State.runEndSector (s : State) : Nat :=
  let t := s.store.tail
  (t / 256 - 1 + (t % 256 + s.store.erasedRun) / 256) % 511 + 1

/-- Whether the erased run takes in all 511 sectors, so that none follows it. -/
def State.runWhole (s : State) : Bool := decide (130816 ≤ s.store.tail % 256 + s.store.erasedRun)

/-- Counts the sectors from `sector` on that pass a test, in index order, at most `fuel` of them. -/
def countSectors (test : Nat → Bool) : Nat → Nat → Nat
  | 0, _ => 0
  | fuel + 1, sector => if test sector then 1 + countSectors test fuel (nextSector sector) else 0

/-- Erasable space (R13): 256 pages for each sector that background erase could erase in turn from the end of the erased
run; 0 in HOLDUP. -/
def State.erasable (s : State) : Nat :=
  match s.monitor.power with
  | .holdup => 0
  | .main => if s.runWhole then 0 else 256 * countSectors s.eligible 511 s.runEndSector

/-- The arm minimum: the close reserve + 255 pages (R13). -/
def State.armMinimum (s : State) : Nat := s.epoch.settings.closeReserve + 255

/-- What LOW is (R13). -/
def State.lowNow (s : State) : Bool := s.formatting || decide (s.store.erasedRun + s.erasable < s.armMinimum)

/-- LOW is re-evaluated (R13). -/
def State.evalLow (s : State) : State := { s with store := { s.store with low := s.lowNow } }

/-- EXHAUSTED is set when last sequence or last sector sequence has reached 2^32 − 1 (R7). -/
def State.evalExhausted (s : State) : State :=
  { s with store := { s.store with
      exhausted := s.store.exhausted || decide (max32 ≤ s.store.lastSeq) || decide (max32 ≤ s.store.lastSectorSeq) } }

/-- The erased run grows over the blank sectors that follow it (R7, R14, R18). -/
def State.growRun (s : State) : State :=
  let blank (sector : Nat) : Bool := decide (s.dir sector = .blank) && decide (sector ≠ s.store.tail / 256)
  if s.runWhole then s
  else { s with store := { s.store with
    erasedRun := s.store.erasedRun + 256 * countSectors blank 511 s.runEndSector } }

/-- R14: the candidate for background erase, in MAIN: the first sector that is not blank after the erased run, provided it
is eligible. -/
def State.eraseCandidate (s : State) : Option Nat :=
  match s.monitor.power with
  | .holdup => none
  | .main => if !s.runWhole && s.eligible s.runEndSector then some s.runEndSector else none

/-- The READY output of a lane (R160): asserted in CLOCKED unless both slots are HELD. -/
def Lane.ready (l : Lane) : Bool :=
  match l.settings.mode, l.slot0, l.slot1 with
  | .clocked, .held _, .held _ => false
  | .clocked, _, _ => true
  | _, _, _ => false

/-- The conditions that keep an epoch from opening (R110): 1 for LOW, 2 for FAULT, 3 for both, 0 when it may open. -/
def State.openObstacle (s : State) : Nat :=
  (if s.store.low then 1 else 0) + if s.writer.state = .fault then 2 else 0

/-- The conditions that keep a REARM from being taken in CLOSED (R126), as the condition byte of Formats: bit 0 LOW, bit 1
FAULT, bit 2 HOLDUP. -/
def State.rearmObstacle (s : State) : Nat :=
  s.openObstacle + if s.monitor.power = .holdup then 4 else 0

end Sys2Proof.Machine
end

