-- ==== Sys2Proof/Machine/Queue.lean ====
section
/-! DEFINITION. Machine/Queue.lean: the commit queue (R67 to R70) and the counts that its losses raise. -/

namespace Sys2Proof.Machine

def queueCapacity : Nat := 128

/-- The header values of a record that the part composes (R4): everything 0 but its kind and its length; its timestamps are
set when the writer admits it. -/
def RecInfo.own (kind : RecKind) (payloadLen : Nat) : RecInfo :=
  ⟨kind, 0, ⟨0, 0⟩, 0, .complete, 0, false, 0, 0, payloadLen, 0, 0⟩

/-- The stream an anomaly about a record names: a DUMP's stream, none for another kind. -/
def RecInfo.streamField (i : RecInfo) : Option Nat := if i.kind = .dump then some i.stream else none

/-- R120: a DUMP has been lost, which the tally counts; a record of another kind is not counted. -/
def State.countLost (s : State) (i : RecInfo) : State :=
  if i.kind = .dump then
    { s with epoch := { s.epoch with tally := { s.epoch.tally with lost := satInc max16 s.epoch.tally.lost } } }
  else s

def State.countStoreFull (s : State) : State :=
  { s with commit := { s.commit with storeFull := satInc max16 s.commit.storeFull } }

def State.countBudgetDrop (s : State) : State :=
  { s with commit := { s.commit with budget := satInc max16 s.commit.budget } }

/-- R68: the place a class gives: after every entry of equal or smaller class number, before every larger one. -/
def insertEntry (e : QEntry) : List QEntry → List QEntry
  | [] => [e]
  | x :: xs => if x.info.cls ≤ e.info.cls then x :: insertEntry e xs else e :: x :: xs

/-- The anomaly of a record that the queue gives up (R69): its lane, source and stream, the tick, and
class × 16,777,216 + payload length. -/
def QEntry.anomaly (e : QEntry) (kind : AnomalyKind) (tick : Nat) : Anomaly :=
  ⟨kind, some e.info.lane, some e.info.source, some e.info.stream, tick, e.info.cls * 16777216 + e.info.payloadLen⟩

/-- A record enters the queue at its place (R68), and the writer has an occasion to examine the queue (R72). -/
def State.enterQueue (s : State) (e : QEntry) : State := { s with queue := insertEntry e s.queue, examDue := true }

/-- R69: the queue is full. The newest entry of the largest class present is the queue's last; it is evicted when its class
number is larger than the offered record's, and otherwise the offered record is dropped. -/
def State.offerFull (s : State) (e : QEntry) : State :=
  match s.queue.getLast? with
  | none => s
  | some last =>
    if e.info.cls < last.info.cls then
      let s := { s with queue := s.queue.dropLast, commit := { s.commit with evicted := satInc max16 s.commit.evicted } }
      (((s.returnBlocks last.chain).post (last.anomaly .evicted s.tick)).countLost last.info).enterQueue e
    else
      let s := { s with commit := { s.commit with queueFull := satInc max16 s.commit.queueFull } }
      ((s.returnBlocks e.chain).post (e.anomaly .queueFull s.tick)).countLost e.info

/-- A record is offered to the queue (R68, R69). -/
def State.offer (s : State) (e : QEntry) : State :=
  let s := { s with commit := { s.commit with offered := satInc max32 s.commit.offered } }
  if s.queue.length < queueCapacity then s.enterQueue e else s.offerFull e

end Sys2Proof.Machine
end

