-- ==== Sys2Proof/Machine/Reassembly.lean ====
section
/-! DEFINITION. Machine/Reassembly.lean: appends, closing a record, closing and resetting every stream, and the fragments
taken in each stream state (R41 to R66). -/

namespace Sys2Proof.Machine

/-! ## Counters (R58) -/

def State.mapReassembly (s : State) (f : ReassemblyCounters → ReassemblyCounters) : State :=
  { s with reassembly := f s.reassembly }

/-- R58: a record is closed with this completion; COMPLETE with the GAP flag is counted a second time. -/
def ReassemblyCounters.closed (c : ReassemblyCounters) (how : Completion) (gap : Bool) : ReassemblyCounters :=
  match how with
  | .complete => { c with
      complete := satInc max32 c.complete
      completeGap := if gap then satInc max32 c.completeGap else c.completeGap }
  | .restarted => { c with restarted := satInc max32 c.restarted }
  | .length => { c with length := satInc max32 c.length }
  | .pool => { c with pool := satInc max32 c.pool }
  | .aged => { c with aged := satInc max32 c.aged }
  | .flushed => { c with flushed := satInc max32 c.flushed }

/-! ## Closing a record (R57) -/

/-- The commit-queue entry of a stream's open record, closed in a given way at a given tick. -/
def Stream.entry (t : Stream) (index : Nat) (how : Completion) (tick : Nat) : QEntry :=
  ⟨⟨.dump, t.record.cls, t.record.source, index, how, t.record.firstLane, t.record.gap, t.record.missing, t.record.fragCount,
    t.record.bytes, t.record.firstTick, tick⟩, t.record.chain, []⟩

/-- A record is counted by its completion and offered to the commit queue. -/
def State.handOver (s : State) (e : QEntry) : State :=
  (s.mapReassembly fun c => c.closed e.info.completion e.info.gap).offer e

/-- The stream with idle fields, its drop count kept (R34), in a given state. -/
def Stream.cleared (t : Stream) (state : StreamState) : Stream := { t with state := state, record := InProgress.idle }

/-- The stream whose record has been closed TRUNCATED with more of it to come: it keeps its fields but for the chain (R34). -/
def Stream.discard (t : Stream) : Stream := { t with state := .discarding, record := { t.record with chain := [] } }

/-- The open record of stream `i` is closed and handed over; the stream becomes IDLE with idle fields. -/
def State.closeRecord (s : State) (i : Nat) (how : Completion) (tick : Nat) : State :=
  ((s.setStream i ((s.stream i).cleared .idle)).handOver ((s.stream i).entry i how tick))

/-- The open record of stream `i` is closed and handed over; the stream goes to DISCARDING. -/
def State.truncateRecord (s : State) (i : Nat) (how : Completion) (tick : Nat) : State :=
  ((s.setStream i (s.stream i).discard).handOver ((s.stream i).entry i how tick))

/-! ## The append (R53) -/

/-- The bytes that the tail block of a record holds room for: 0 when the chain is absent. -/
def InProgress.room (r : InProgress) : Nat :=
  if r.chain = [] then 0 else if r.bytes % 256 = 0 then 0 else 256 - r.bytes % 256

/-- The test of R53 that an append fails, in order: the block limit, then the pool; none when it passes. -/
def State.appendFails (s : State) (i n : Nat) : Option Completion :=
  let r := (s.stream i).record
  if n ≤ r.room then none
  else if (s.stream i).settings.active.blockLimit ≤ r.chain.length then some .length
  else if (if r.cls = 0 then s.freeList.length < 1 else s.freeList.length ≤ s.poolReserve.active) then some .pool
  else none

/-- R53, an append that passes: the bytes fill the tail block's room and then one new block from the head of the free
list. -/
def State.appendStore (s : State) (i : Nat) (payload : List Byte) : State :=
  let t := s.stream i
  let r := t.record
  let f := r.room
  let pool := Memory.store poolBlank s.pool (r.chain.getLastD 0 * 256 + r.bytes % 256) (payload.take f)
  if payload.length ≤ f then
    { s with pool := if payload = [] then s.pool else pool }.setStream i
      { t with record := { r with bytes := r.bytes + payload.length } }
  else
    let b := s.freeList.headD 0
    { s with
      pool := Memory.store poolBlank (if f = 0 then s.pool else pool) (b * 256) (payload.drop f)
      freeList := s.freeList.drop 1 }.setStream i
      { t with record := { r with bytes := r.bytes + payload.length, chain := r.chain ++ [b] } }

/-! ## Fragments (R45 to R51) -/

/-- A record fragment as the source map hands it to reassembly (R28, R41). -/
structure RecFragment where
  frag : Fragment
  lane : Nat
  tick : Nat
  stream : Nat
  opens : Bool
  deriving DecidableEq, Repr

/-- The anomalies reassembly posts for a fragment: lane, source address, stream and arrival tick (R41). -/
def RecFragment.anomaly (f : RecFragment) (kind : AnomalyKind) (detail : Nat) : Anomaly :=
  ⟨kind, some f.lane, some f.frag.source, some f.stream, f.tick, detail⟩

/-- A fragment is dropped: its stream's drop count rises and the unit counts it (R41, R58). -/
def State.dropFragment (s : State) (i : Nat) : State :=
  (s.setStream i { s.stream i with drops := satInc max8 (s.stream i).drops }).mapReassembly fun c =>
    { c with dropped := satInc max32 c.dropped }

/-- A fragment is dropped with an anomaly. -/
def State.dropPosted (s : State) (f : RecFragment) (kind : AnomalyKind) (detail : Nat) : State :=
  (s.dropFragment f.stream).post (f.anomaly kind detail)

/-- A fragment is admitted: the stream's age count becomes 0, the unit and the tally count it, and in CAPTURE the quiet
timer starts again with the full quiet time unless its code is 0 (R41, R58, R115, R120). -/
def State.admitFragment (s : State) (i : Nat) : State :=
  let t := s.stream i
  let s := (s.setStream i { t with record := { t.record with age := 0 } }).mapReassembly fun c =>
    { c with admitted := satInc max32 c.admitted }
  let quiet := if s.epoch.state = .capture ∧ s.epoch.settings.quiet ≠ 0 then
      some (duration s.epoch.settings.quiet * 1000) else s.epoch.quietTimer
  { s with epoch := { s.epoch with
      quietTimer := quiet, tally := { s.epoch.tally with admitted := satInc max16 s.epoch.tally.admitted } } }

/-- The fields a FIRST or ONLY gives the record it opens (R45, R46). -/
def RecFragment.opened (f : RecFragment) : InProgress :=
  ⟨f.frag.cls, 1, [], 0, 1, false, 0, f.tick, f.lane, 0, f.frag.source⟩

/-- R45: a FIRST taken by a stream in IDLE opens a record; when its append fails, the record is closed at once with no
payload and the stream goes to DISCARDING. -/
def State.takeFirst (s : State) (f : RecFragment) : State :=
  let s := s.setStream f.stream { s.stream f.stream with state := .assembling, record := f.opened }
  match s.appendFails f.stream f.frag.payload.length with
  | none => (s.appendStore f.stream f.frag.payload).admitFragment f.stream
  | some how => (s.admitFragment f.stream).truncateRecord f.stream how f.tick

/-- R46: an ONLY taken by a stream in IDLE makes a record of one fragment, closed at once; the stream stays IDLE. -/
def State.takeOnly (s : State) (f : RecFragment) : State :=
  let s := s.setStream f.stream { s.stream f.stream with state := .assembling, record := f.opened }
  match s.appendFails f.stream f.frag.payload.length with
  | none => ((s.appendStore f.stream f.frag.payload).admitFragment f.stream).closeRecord f.stream .complete f.tick
  | some how => (s.admitFragment f.stream).closeRecord f.stream how f.tick

/-- A FIRST or an ONLY for a stream with no open record. -/
def State.takeOpening (s : State) (f : RecFragment) : State :=
  if f.frag.kind = .first then s.takeFirst f else s.takeOnly f

/-- R48, R49, R54: a MIDDLE or LAST numbered `e` (the expected number) or above is taken: a gap is noted, the payload
appended, and a LAST or a MIDDLE numbered 255 closes the record. A failed append closes the record as it stood, and drops
the fragment. The expected number after an in-order MIDDLE numbered 255, of which R48 says nothing, is 256, as R49 gives it
after a gap: the model's choice (log 45). -/
def State.takeNumbered (s : State) (f : RecFragment) : State :=
  let i := f.stream
  match s.appendFails i f.frag.payload.length with
  | some how =>
    if f.frag.kind = .last then (s.closeRecord i how f.tick).dropFragment i
    else (s.truncateRecord i how f.tick).dropFragment i
  | none =>
    let r := (s.stream i).record
    let skipped := f.frag.number - r.expected
    let s := s.appendStore i f.frag.payload
    let t := s.stream i
    let s := s.setStream i { t with record := { t.record with
      gap := t.record.gap || decide (0 < skipped)
      missing := min 255 (t.record.missing + skipped)
      fragCount := t.record.fragCount + 1
      expected := f.frag.number + 1 } }
    let s := s.admitFragment i
    if f.frag.kind = .last then s.closeRecord i .complete f.tick
    else if f.frag.number = 255 then s.truncateRecord i .length f.tick
    else s

/-- R48, R49: a MIDDLE or LAST taken by a stream in ASSEMBLING, by its number. -/
def State.takeContinuation (s : State) (f : RecFragment) : State :=
  let e := (s.stream f.stream).record.expected
  if f.frag.number + 1 = e then s.dropPosted f .duplicate f.frag.number
  else if f.frag.number < e then s.dropPosted f .stale (e * 256 + f.frag.number)
  else s.takeNumbered f

/-- R45 to R51: a fragment that has passed the gate, by its kind and its stream's state. -/
def State.takeByState (s : State) (f : RecFragment) : State :=
  let i := f.stream
  match (s.stream i).state, f.frag.kind with
  | .idle, .first | .idle, .only => s.takeOpening f
  | .idle, _ => s.dropPosted f .unexpectedContinuation (f.frag.kind.code * 256 + f.frag.number)
  | .assembling, .first | .assembling, .only => (s.closeRecord i .restarted f.tick).takeOpening f
  | .assembling, _ => s.takeContinuation f
  | .discarding, .first | .discarding, .only => (s.setStream i ((s.stream i).cleared .idle)).takeOpening f
  | .discarding, .last => (s.setStream i ((s.stream i).cleared .idle)).dropFragment i
  | .discarding, _ => s.dropFragment i
  | .barred, _ => s.dropFragment i

/-! ## Every stream (R59 to R61) -/

/-- R59: one stream of a close of all streams. -/
def State.closeStream (s : State) (i : Nat) : State :=
  match (s.stream i).state with
  | .assembling => s.closeRecord i .flushed s.tick
  | .discarding => s.setStream i ((s.stream i).cleared .idle)
  | _ => s

/-- R59: the close of all streams, in index order. -/
def State.closeAll (s : State) : State := (List.range 512).foldl State.closeStream s

/-- R61: at rearm every stream that is not BARRED becomes IDLE, and every field but the drop count takes its idle value. -/
def Stream.rearmed (t : Stream) : Stream := t.cleared (if t.state = .barred then .barred else .idle)

def State.resetStreams (s : State) : State := { s with streams := s.streams.map Stream.rearmed }

end Sys2Proof.Machine
end

