-- ==== Sys2Proof/Machine/Epoch.lean ====
section
/-! DEFINITION. Machine/Epoch.lean: the epoch controller's shared operations: opening, flush, the close of all streams, the
entry to CLOSED with the pending copies, and rearm (R35, R36, R108 to R127). -/

namespace Sys2Proof.Machine

/-! ## Applying settings (R33, R36, R64) -/

/-- Stream settings take effect: a change of enabled moves the stream into or out of BARRED (R33). -/
def Stream.apply (t : Stream) (new : StreamSettings) : Stream :=
  let u := { t with settings := ⟨new, none⟩ }
  if new.enabled = t.settings.active.enabled then u
  else u.cleared (if new.enabled then .idle else .barred)

/-- The sweep timer's full interval for an interval code, or none when the sweep is off (R64). -/
def sweepInterval (code : Nat) : Option Nat := if duration code = 0 then none else some (duration code * 100)

/-- Aging settings take effect: a change of range or interval returns the cursor to the first index and restarts or stops
the timer; equal values change nothing (R64). -/
def State.applyAging (s : State) (new : AgingSettings) : State :=
  let old := s.aging.active
  let t := { s with aging := ⟨new, none⟩ }
  if new.first = old.first ∧ new.last = old.last ∧ new.interval = old.interval then t
  else { t with cursor := new.first, sweepTimer := sweepInterval new.interval }

/-- A pending copy becomes the active value, and none is held. -/
def Pend.apply {α : Type} (p : Pend α) : Pend α := ⟨p.pending.getD p.active, none⟩

/-- How many targets hold a pending copy (R36). -/
def State.pendingCount (s : State) : Nat :=
  (s.domains.list.filter fun p => p.pending.isSome).length + (if s.primary.pending.isSome then 1 else 0)
    + (s.streams.list.filter fun t => t.settings.pending.isSome).length + (if s.aging.pending.isSome then 1 else 0)
    + if s.poolReserve.pending.isSome then 1 else 0

/-- Every pending copy is applied, all together (R36). -/
def State.applyPending (s : State) : State :=
  let s := { s with
    domains := s.domains.map Pend.apply
    primary := s.primary.apply
    streams := s.streams.map fun (t : Stream) => t.apply t.settings.apply.active
    poolReserve := s.poolReserve.apply }
  match s.aging.pending with
  | some new => s.applyAging new
  | none => s

/-! ## Rearm (R125) -/

/-- Rearm from CLOSED to WATCH; `source` is 1 for the request, 2 for the policy at close, 3 for start-up. -/
def State.rearm (s : State) (source : Nat) : State :=
  let s := { s with history := s.history.merge }
  let s := s.resetStreams
  let s := { s with lines := s.lines.map fun (l : TriggerLine) => { l with count := 0 } }
  let s := { s with epoch := { s.epoch with state := .watch } }
  (s.ownEvent .epoch 0x0205 (le 1 source)).tellEpoch

/-! ## Entry to CLOSED (R121, R123) -/

/-- The effects of the entry to CLOSED that both closes share: the state, the pending copies, the events EPOCH_CLOSED and,
when a copy was applied, CONFIG_APPLIED. -/
def State.enterClosed (s : State) (forced : Bool) : State :=
  let n := s.pendingCount
  let s := { s with epoch := { s.epoch with state := .closed } }
  let s := s.applyPending
  let s := s.ownEvent .epoch 0x0203 (le 2 s.epoch.number ++ le 1 s.epoch.flushCause.code ++ [boolByte forced])
  let s := if n = 0 then s else s.ownEvent .epoch 0x0204 (le 2 n)
  s.tellEpoch

/-- R121: the close writes are done: the epoch enters CLOSED, the writer becomes IDLE, and the automatic rearm of R126 is
tested. -/
def State.closeEpoch (s : State) : State :=
  let s := { s with writer := { s.writer with state := .idle, toClose := [] } }
  let s := s.enterClosed false
  if s.epoch.settings.autoRearm ∧ s.rearmObstacle = 0 then s.rearm 2 else s

/-! ## Flush (R116, R117, R119) -/

/-- The close of all streams is taken, once per epoch, and reported to the writer (R117). -/
def State.closeStreams (s : State) : State :=
  if s.epoch.streamsClosed then s
  else
    let s := { s with epoch := { s.epoch with graceTimer := none } }
    let s := s.closeAll
    { s with epoch := { s.epoch with streamsClosed := true }, examDue := true }

/-- The grace the power state gives, as a duration code (R116). -/
def State.powerGrace (s : State) : Nat :=
  match s.monitor.power with
  | .main => s.epoch.settings.grace
  | .holdup => s.epoch.settings.holdupGrace

/-- FLUSH entry from CAPTURE with a cause and a grace code, 0 for no grace (R116). -/
def State.enterFlush (s : State) (cause : FlushCause) (grace : Nat) : State :=
  let s := { s with epoch := { s.epoch with
    state := .flush, flushCause := cause, flushTick := s.tick, windowTimer := none, quietTimer := none } }
  let s := s.ownEvent .epoch 0x0202 (le 1 cause.code ++ le 1 cause.arg)
  let s := s.tellEpoch
  if duration grace = 0 then s.closeStreams
  else { s with epoch := { s.epoch with graceTimer := some (duration grace * 1000) } }

/-- A flush cause that takes no grace (EXHAUSTED, STORE_FULL) by epoch state: in CAPTURE the epoch enters FLUSH, in FLUSH a
running grace is ended at once (R103, R116, R119). -/
def State.flushAtOnce (s : State) (cause : FlushCause) : State :=
  match s.epoch.state with
  | .capture => s.enterFlush cause 0
  | .flush => s.closeStreams
  | _ => s

/-- The store's STORE_FULL report, made once per epoch (R12, R78). -/
def State.reportStoreFull (s : State) : State :=
  if s.epoch.storeFullTaken then s
  else match s.epoch.state with
    | .capture | .flush =>
      ({ s with epoch := { s.epoch with storeFullTaken := true } }).flushAtOnce .storeFull
    | _ => s

/-! ## Opening (R110 to R112) -/

/-- The OPEN_MARK's 47 payload bytes, fixed when the epoch opens (R112). -/
def State.openMarkPayload (s : State) : List Byte :=
  let e := s.epoch
  le 2 e.number ++ le 1 e.openCause.code ++ le 1 e.openCause.arg ++ le 6 e.openTick ++ [boolByte s.anchor.isSome]
    ++ anchorBytes s.anchor ++ le 4 s.imageSeq ++ le 1 s.monitor.power.code ++ le 4 s.history.newestRing
    ++ le 2 s.history.ring.length ++ le 2 e.settings.window ++ le 1 e.settings.quiet ++ le 1 e.settings.grace
    ++ le 1 e.settings.holdupGrace

/-- The epoch number after this one: from 65,535 it is 1 (R111). -/
def nextEpochNumber (n : Nat) : Nat := if n ≥ max16 then 1 else n + 1

/-- The event EPOCH_OPEN with its outcome: OPENED 1, CANNOT_OPEN 2, ALREADY_OPEN 3, CLOSED 4 (R110). -/
def State.openEvent (s : State) (cause : OpenCause) (outcome : Nat) : State :=
  s.ownEvent .epoch 0x0201 (le 1 cause.code ++ le 1 cause.arg ++ le 1 outcome)

/-- The HISTORY entry of an opening: it names the frozen ring, which the writer reads in place (R70). -/
def State.historyEntry (s : State) : QEntry := ⟨RecInfo.own .history (2 + 40 * s.history.ring.length), [], []⟩

/-- The OPEN_MARK entry of an opening. -/
def State.openMarkEntry (s : State) : QEntry := ⟨RecInfo.own .openMark 47, [], s.openMarkPayload⟩

/-- A timer of whole milliseconds, or stopped when it is 0. -/
def msTimer (ms : Nat) : Option Nat := if ms = 0 then none else some (ms * 1000)

/-- R111: an epoch opens. -/
def State.openEpoch (s : State) (cause : OpenCause) : State :=
  let e := s.epoch
  let s := { s with
    epoch := { e with
      state := .capture, number := nextEpochNumber e.number, openCause := cause, openTick := s.tick, flushCause := .none,
      flushTick := 0, streamsClosed := false, storeFullTaken := false, tally := Tally.zero,
      windowTimer := msTimer e.settings.window, quietTimer := msTimer (duration e.settings.quiet), graceTimer := none }
    budget := { s.budget with exhaustionMade := false }
    history := s.history.freeze
    writer := { s.writer with state := .selecting, openMarkDropped := false, openMarkSeq := none } }
  let s := (s.offer s.openMarkEntry).offer s.historyEntry
  let s := { s with examDue := true }
  (s.openEvent cause 1).tellEpoch

/-- R110: the anomaly of an opening request that cannot be met. -/
def State.postCannotOpen (s : State) (cause : OpenCause) : State :=
  let lane := match cause with | .trigger l => some l | _ => none
  let source := match cause with | .source d => some (⟨d, 0⟩ : SourceAddr) | _ => none
  s.post ⟨.cannotOpen, lane, source, none, s.tick, cause.code * 256 + s.openObstacle⟩

/-- R110: the controller takes an opening request by the epoch state. -/
def State.openRequest (s : State) (cause : OpenCause) : State :=
  match s.epoch.state with
  | .watch => if s.openObstacle = 0 then s.openEpoch cause else (s.postCannotOpen cause).openEvent cause 2
  | .capture | .flush => s.openEvent cause 3
  | .closed => s.openEvent cause 4

/-! ## The forced close (R86, R123) -/

/-- R86, step 2: one queued record is dropped with FLASH_FAULT. -/
def State.dropFault (s : State) (e : QEntry) : State :=
  let s := { s with commit := { s.commit with fault := satInc max16 s.commit.fault } }
  (s.returnBlocks e.chain).postPlain .flashFault e.info.streamField e.info.payloadLen

/-- R123: the flash port has entered FAULT: an open epoch is closed at once. -/
def State.forceClose (s : State) : State :=
  match s.epoch.state with
  | .capture | .flush =>
    let s := { s with epoch := { s.epoch with windowTimer := none, quietTimer := none, graceTimer := none } }
    let s := s.closeStreams
    let q := s.queue
    let s := { s with queue := [] }
    let s := q.foldl State.dropFault s
    s.enterClosed true
  | _ => s

end Sys2Proof.Machine
end

