-- ==== Sys2Proof/Machine/Budget.lean ====
section
/-! DEFINITION. Machine/Budget.lean: the budget unit: voltage, estimate, committed and available energy, and its answer to the
writer (R90, R97 to R104). -/

namespace Sys2Proof.Machine

/-- The code used: the smallest of the last four (R90). -/
def Monitor.codeUsed (m : Monitor) : Nat := m.codes.list.foldl min 4095

/-- R97: V = floor(code × S / 4096), in millivolts. -/
def voltage (code scale : Nat) : Nat := code * scale / 4096

/-- R98: the energy above the floor voltage, in microjoules, at most 2^32 − 1. -/
def energyOf (b : BudgetSettings) (v : Nat) : Nat :=
  if v ≤ b.floor then 0 else min max32 (b.capacitance * (v * v - b.floor * b.floor) / 2000)

/-- R99: committed energy is the page cost times the outstanding pages. -/
def Budget.committed (b : Budget) : Nat := b.settings.pageCost * b.outstanding

/-- R100: available energy, 0 when the difference is negative. -/
def Budget.available (b : Budget) : Nat := b.energy - (b.committed + b.settings.reserve)

/-- R101: whether a record of class `c` and `n` pages may be taken. -/
def Budget.answer (b : Budget) (c n : Nat) : Bool :=
  decide (c ≤ b.settings.ceiling) && decide (n * b.settings.pageCost ≤ b.available)

/-- R98: the estimate is recomputed from the code used. -/
def State.recomputeEnergy (s : State) : State :=
  { s with budget := { s.budget with
      energy := energyOf s.budget.settings (voltage s.monitor.codeUsed s.budget.settings.scale) } }

/-- R99: `n` pages have been admitted. -/
def State.commitPages (s : State) (n : Nat) : State :=
  { s with budget := { s.budget with outstanding := s.budget.outstanding + n } }

/-- R99: `n` outstanding pages have been programmed or abandoned. -/
def State.uncommitPages (s : State) (n : Nat) : State :=
  { s with budget := { s.budget with outstanding := s.budget.outstanding - n } }

/-- R105: the budget unit has answered no. -/
def State.countRefusal (s : State) : State :=
  { s with powerCounters := { s.powerCounters with refusals := satInc max32 s.powerCounters.refusals } }

/-- R103: the exhaustion report, made at most once per epoch at an examination in HOLDUP that admits nothing while less than
one page's energy is available. -/
def State.reportExhaustion (s : State) : State :=
  let open_ := decide (s.epoch.state = .capture) || decide (s.epoch.state = .flush)
  if s.monitor.power = .holdup ∧ open_ = true ∧ s.budget.available < s.budget.settings.pageCost
      ∧ s.budget.exhaustionMade = false then
    let s := { s with
      budget := { s.budget with exhaustionMade := true }
      powerCounters := { s.powerCounters with exhaustions := satInc max16 s.powerCounters.exhaustions } }
    s.flushAtOnce .exhausted
  else s

end Sys2Proof.Machine
end

