-- ==== Sys2Proof/Machine/Writer.lean ====
section
/-! DEFINITION. Machine/Writer.lean: the store writer: composing pages and marks, admission, the examination of the queue,
the close writes, and what the completion of a page or of the VALID state byte changes (R3, R4, R8, R9, R12, R71 to R81). -/

namespace Sys2Proof.Machine

/-! ## Composing (R3, R4, R8, R77) -/

/-- Payload bytes `lo` to `hi` − 1 of the record in flight: a DUMP's from its chain, a HISTORY's from the frozen ring read in
place, any other's from what was composed at its admission. -/
def State.payloadSlice (s : State) (f : InFlight) (lo hi : Nat) : List Byte :=
  match f.info.kind with
  | .dump => (List.range (hi - lo)).map fun i =>
      s.poolByte (f.chain.getD ((lo + i) / 256) 0 * 256 + (lo + i) % 256)
  | .history => ((historyPayload s.history.ring).drop lo).take (hi - lo)
  | _ => (f.payload.drop lo).take (hi - lo)

/-- The payload bytes that frame page `p` holds: payload byte i stands at frame byte 40 + i (R77). -/
def State.pagePayload (s : State) (f : InFlight) (p : Nat) : List Byte :=
  s.payloadSlice f (256 * p - 40) (min f.info.payloadLen (256 * p + 216))

/-- The running check advanced over the payload bytes of frame page `p` (R8). -/
def State.sumAfter (s : State) (f : InFlight) (p : Nat) : Nat × Nat := sumBytes (f.sumA, f.sumB) (s.pagePayload f p)

/-- The payload check for a running sum: an empty payload leaves the seed (R8). -/
def InFlight.check (f : InFlight) (ab : Nat × Nat) : Nat := if f.info.payloadLen = 0 then f.seed else sumCheck ab

/-- The bytes of frame page `p`: the header in page 0, the payload bytes of the page, and what of the trailer lies in it. -/
def State.framePage (s : State) (f : InFlight) (p seq : Nat) : List Byte :=
  let head := if p = 0 then headerBytes 0x7F f.info seq s.epoch.number f.seed else []
  let body := head ++ s.pagePayload f p
  let trailer := le 4 (f.check (s.sumAfter f p)) ++ le 4 f.info.payloadLen
  body ++ (trailer.drop (256 * p - (40 + f.info.payloadLen))).take (256 - body.length)

/-- The frame pages of the record in flight still to be programmed. -/
def InFlight.remaining (f : InFlight) : Nat := framePages f.info.payloadLen - f.done

/-- R3: the mark of the sector that the tail stands at, its sector sequence one more than the newest's (log 4): with r of the
record's pages still to come in this sector (0 when it opens the sector for a new record), the first-record page is 1 + r, or
none past 255. -/
def State.markFor (s : State) (f : InFlight) : Mark :=
  let r := if f.done = 0 then 0 else f.remaining
  ⟨s.seqAfter s.store.lastSectorSeq, s.epoch.number, if 1 + r ≤ 255 then 1 + r else 0⟩

/-- The next operation of the record in flight, in the order of R9: a mark at page 0, a frame page, the state byte VALID. -/
def State.writerOp (s : State) (f : InFlight) : FlashOp :=
  if f.remaining = 0 then ⟨.stateByte, f.start.getD 0, [0x3F]⟩
  else if s.store.tail % 256 = 0 then ⟨.pageProgram, s.store.tail, (s.markFor f).bytes⟩
  else ⟨.pageProgram, s.store.tail, s.framePage f f.done (s.store.lastSeq + 1)⟩

/-- The writer claims the next operation of its record in flight (R76, R83). The bytes of the operation are fixed here, at the
claim, and stand however long it waits for its grant (log 46). -/
def State.claimWriter (s : State) : State :=
  match s.writer.inFlight with
  | some f => { s with port := { s.port with waitWriter := some (s.writerOp f) } }
  | none => s

/-! ## Admission (R75) -/

/-- A record of n pages becomes the record in flight: its pages are reported to the budget unit, the running check is seeded
with the last check, its timestamps are the present tick unless it is a DUMP, the tick of its admission is noted, and its first operation is
claimed. -/
def State.beginRecord (s : State) (e : QEntry) (state : WriterState) : State :=
  let info := if e.info.kind = .dump then e.info else { e.info with firstTick := s.tick, doneTick := s.tick }
  let n := pageCount s.store.tail info.payloadLen
  let ab := sumSeed s.store.lastCheck
  let f : InFlight := ⟨info, e.chain, 0, e.payload, n, 0, none, 0, s.store.lastCheck, ab.1, ab.2, s.tick⟩
  ({ s with writer := { s.writer with state := state, inFlight := some f } }.commitPages n).claimWriter

/-! ## The examination (R72 to R74, R79) -/

/-- The outcomes of the space test (R73). -/
inductive SpaceTest where
  | fits | waits | refused
  deriving DecidableEq, Repr

/-- The pages a record leaves alone: the close reserve for a DUMP or HISTORY, none for the other kinds (R12). -/
def State.heldBack (s : State) (kind : RecKind) : Nat :=
  match kind with
  | .dump | .history => s.epoch.settings.closeReserve
  | _ => 0

/-- R73, R78: the space test. -/
def State.spaceTest (s : State) (i : RecInfo) : SpaceTest :=
  let n := pageCount s.store.tail i.payloadLen
  if s.store.exhausted ∨ s.writer.openMarkDropped then .refused
  else if n + s.heldBack i.kind ≤ s.store.erasedRun then .fits
  else if s.monitor.power = .main ∧ n + s.heldBack i.kind ≤ s.store.erasedRun + s.erasable then .waits
  else .refused

/-- A record refused or dropped for space: its chain returns, STORE_FULL is posted with n, and it is counted (R73, R78). -/
def State.dropStoreFull (s : State) (e : QEntry) : State :=
  let n := pageCount s.store.tail e.info.payloadLen
  let s := (((s.returnBlocks e.chain).postPlain .storeFull e.info.streamField n).countStoreFull).countLost e.info
  if e.info.kind = .openMark then { s with writer := { s.writer with openMarkDropped := true } } else s

/-- A record dropped for energy: its chain returns, BUDGET is posted with n, and it is counted (R74, R79). -/
def State.dropBudget (s : State) (e : QEntry) : State :=
  let n := pageCount s.store.tail e.info.payloadLen
  (((s.returnBlocks e.chain).postPlain .budget e.info.streamField n).countBudgetDrop).countLost e.info

/-- How a scan of the queue ends: a record was taken; a record waits for erasure; no record can be taken. -/
inductive ScanEnd where
  | taken | waits | nothing
  deriving DecidableEq, Repr

/-- R72: whether a record that fits is taken without a budget question: in MAIN, and the OPEN_MARK always (R74). -/
def State.noQuestion (s : State) (kind : RecKind) : Bool := decide (s.monitor.power = .main) || decide (kind = .openMark)

/-- R72 to R74: the scan of the queue from its head; `kept` are the records passed over. -/
def scanQueue (kept : List QEntry) : List QEntry → State → ScanEnd × State
  | [], s => (.nothing, { s with queue := kept })
  | e :: rest, s =>
    match s.spaceTest e.info with
    | .waits => (.waits, { s with queue := kept ++ e :: rest })
    | .refused => scanQueue kept rest (s.dropStoreFull e)
    | .fits =>
      if s.noQuestion e.info.kind || s.budget.answer e.info.cls (pageCount s.store.tail e.info.payloadLen) then
        (.taken, { s with queue := kept ++ rest }.beginRecord e .programming)
      else if e.info.kind = .dump then scanQueue (kept ++ [e]) rest s.countRefusal
      else scanQueue kept rest (s.countRefusal.dropBudget e)

/-- The payload of a close write, composed when the writer takes it (R80, R122, R150, R154). -/
def State.closePayload (s : State) : RecKind → List Byte
  | .events => eventsPayload s.history
  | .anomalies => anomaliesPayload s.anomalies
  | _ =>
    let e := s.epoch
    le 2 e.number ++ le 1 e.openCause.code ++ le 1 e.openCause.arg ++ le 6 e.openTick ++ le 1 e.flushCause.code
      ++ le 1 e.flushCause.arg ++ le 6 e.flushTick ++ le 1 s.monitor.power.code
      ++ le 1 ((if s.budget.exhaustionMade then 1 else 0) + (if e.storeFullTaken then 2 else 0)
        + if e.tally.history then 4 else 0)
      ++ le 2 e.tally.written ++ le 2 e.tally.lost ++ le 2 e.tally.admitted ++ le 2 s.history.lostEvents
      ++ le 2 s.anomalies.lost

/-- R80, R81: the next close write is taken when it fits, and passed over with STORE_FULL when it does not; after the last
the epoch closes. -/
def State.nextClose : List RecKind → State → State
  | [], s => s.closeEpoch
  | k :: ks, s =>
    let payload := s.closePayload k
    let n := pageCount s.store.tail payload.length
    if s.store.exhausted = false ∧ n ≤ s.store.erasedRun then
      { s with writer := { s.writer with toClose := ks } }.beginRecord ⟨RecInfo.own k payload.length, [], payload⟩ .closing
    else State.nextClose ks ((s.postPlain .storeFull none n).countStoreFull)

/-- R79: one record still queued when CLOSING is entered. -/
def State.dropAtClosing (s : State) (e : QEntry) : State :=
  if s.spaceTest e.info = .refused then s.dropStoreFull e else s.dropBudget e

/-- R79, R80: CLOSING is entered: each queued record is dropped, in queue order, and the close writes begin; none is
programmed for an epoch whose OPEN_MARK was dropped. -/
def State.enterClosing (s : State) : State :=
  let q := s.queue
  let s := { s with queue := [], writer := { s.writer with state := .closing } }
  let s := q.foldl State.dropAtClosing s
  State.nextClose (if s.writer.openMarkDropped then [] else [.events, .anomalies, .closeMark]) s

/-- R72, R78, R79, R103: one examination in SELECTING, with the reports and the close conditions that belong to it. A report
that closes the streams makes a further occasion, and the close conditions then wait for it; a report made with the streams
already closed makes none, and CLOSING is then entered in the same examination, the model's choice between R79 and R103
(log 15). Where one examination calls for both reports, STORE_FULL is made first (log 15). -/
def State.examineOnce (s : State) : State :=
  let s := { s with examDue := false }
  if s.writer.state ≠ .selecting then s
  else match scanQueue [] s.queue s with
    | (.taken, s) => s
    | (.waits, s) => s
    | (.nothing, s) =>
      let s := if s.writer.openMarkDropped then s.reportStoreFull else s
      let s := s.reportExhaustion
      if s.examDue = false ∧ s.epoch.state = .flush ∧ s.epoch.streamsClosed = true then s.enterClosing else s

/-- The examinations that a change calls for: one after it, and one more after each report that makes an occasion. Both
reports are made at most once per epoch, so three suffice. -/
def State.examine (s : State) : State :=
  let again (s : State) : State := if s.examDue then s.examineOnce else s
  { again (again (again s)) with examDue := false }

/-! ## Completions (R9, R76, R77) -/

/-- R77: how many blocks of the chain have gone back when frame page `p` is programmed. -/
def InFlight.blocksDone (f : InFlight) (p : Nat) : Nat :=
  if (39 + f.info.payloadLen) / 256 ≤ p then f.chain.length else min p (f.chain.length - 1)

/-- A page program of the writer has completed: the tail, the erased run, the counters and LOW (R9, R76, R87). -/
def State.pageMoved (s : State) : State :=
  ({ s with
    store := { s.store with tail := nextPage s.store.tail, erasedRun := s.store.erasedRun - 1 }
    commit := { s.commit with pages := satInc max32 s.commit.pages } }).uncommitPages 1 |>.evalLow

/-- The mark at the tail has been programmed: its sector is in use with the mark that the page now holds (R3, R11). Its
sector sequence is read back from the page, since it was fixed at the claim: it may have been a free value (log 4), and an
erase that empties the log while the claim waits changes what the next mark would carry (log 46). -/
def State.markDone (s : State) (f : InFlight) : State :=
  let m := { s.markFor f with seq := fieldOf (s.page s.store.tail) 1 4 }
  let s := s.setDir (s.store.tail / 256) (.inUse m none)
  ({ s with store := { s.store with lastSectorSeq := m.seq } }).evalExhausted.pageMoved

/-- R11: the header at a sector's first-record page has been programmed, which fills in the directory's sequence. -/
def State.fillFirst (s : State) (p seq : Nat) : State :=
  match s.dir (p / 256) with
  | .inUse m none => if m.firstRecord = p % 256 then s.setDir (p / 256) (.inUse m (some seq)) else s
  | _ => s

/-- Frame page `done` of the record in flight has been programmed (R76, R77). -/
def State.frameDone (s : State) (f : InFlight) : State :=
  let ab := s.sumAfter f f.done
  let back := f.blocksDone f.done
  let first := f.done = 0
  let g : InFlight := { f with
    sumA := ab.1, sumB := ab.2, done := f.done + 1, returned := back
    start := if first then some s.store.tail else f.start
    seq := if first then s.store.lastSeq + 1 else f.seq }
  let s := if first then s.fillFirst s.store.tail (s.store.lastSeq + 1) else s
  let s := s.returnBlocks ((f.chain.take back).drop f.returned)
  { s with writer := { s.writer with inFlight := some g } }.pageMoved

/-- R12: the erased run has come to the close reserve or below in CAPTURE or FLUSH. -/
def State.checkStoreFull (s : State) : State :=
  if s.store.erasedRun ≤ s.epoch.settings.closeReserve then s.reportStoreFull else s

/-- The writer's page program in flight has completed, and it claims the next operation (R76). -/
def State.writerPageDone (s : State) : State :=
  match s.writer.inFlight with
  | none => s
  | some f =>
    let s := if s.store.tail % 256 = 0 then s.markDone f else s.frameDone f
    s.checkStoreFull.claimWriter

/-- What VALID makes of the pointers (R9, step 6): last sequence, last check and last epoch; oldest when it was none; it joins
the records present (log 47). -/
def State.recordPointers (s : State) (f : InFlight) : State :=
  ({ s with store := { s.store with
    lastSeq := f.seq, lastCheck := f.check (f.sumA, f.sumB), lastEpoch := s.epoch.number
    oldest := match s.store.oldest with | some o => some o | none => some (f.seq, f.start.getD 0)
    records := s.store.records ++ [(⟨f.seq, f.start.getD 0, f.info.payloadLen⟩ : LogRecord)] } }).evalExhausted

/-- R120: what a record that turns VALID adds to the tally. -/
def Tally.wrote (t : Tally) : RecKind → Tally
  | .dump => { t with written := satInc max16 t.written }
  | .history => { t with history := true }
  | _ => t

/-- The record in flight has turned VALID (R9, R76): the pointers advance, it is counted, and nothing is in flight. -/
def State.recordValid (s : State) (f : InFlight) : State :=
  let s := s.recordPointers f
  let s := { s with
    epoch := { s.epoch with tally := s.epoch.tally.wrote f.info.kind }
    commit := { s.commit with written := satInc max32 s.commit.written }
    writer := { s.writer with
      inFlight := none
      openMarkSeq := if f.info.kind = RecKind.openMark then some f.seq else s.writer.openMarkSeq } }
  s.tellRecord

/-- After VALID the writer returns to SELECTING and at once examines the queue, or takes the next close write (R76, R80). -/
def State.writerGoesOn (s : State) : State :=
  match s.writer.state with
  | .programming => { s with writer := { s.writer with state := .selecting }, examDue := true }
  | .closing => State.nextClose s.writer.toClose s
  | _ => s

end Sys2Proof.Machine
end

