-- ==== Sys2Proof/Machine/Port.lean ====
section
/-! DEFINITION. Machine/Port.lean: the flash port: claims, grants and flash faults, the end of a service request that the port
or the power ends, and what every change taken whole closes with (R82 to R86, R14, R16, R18, R20, R123, R145). -/

namespace Sys2Proof.Machine

/-! ## The end of a service (R175, R178) -/

/-- The server composes the reply of the request at the head of the queue and hands it to the transmitter; the request
counts as served and keeps its place until the reply's last byte has been sent. -/
def State.replyWith (s : State) (status : Status) (body : List Byte) (reset : Bool) : State :=
  match s.link.queue with
  | [] => s
  | q :: _ =>
    let s := { s with link := { s.link with
      server := .replying
      counters := { s.link.counters with served := satInc max32 s.link.counters.served } } }
    s.handReply ⟨q.req.kind, q.tag, status, body, true, reset⟩

/-- A reply that causes no reset. -/
def State.serverReply (s : State) (status : Status) (body : List Byte) : State := s.replyWith status body false

/-- The sequence of oldest, 0 for none (R15). -/
def Store.oldestSeq (t : Store) : Nat :=
  match t.oldest with
  | some o => o.1
  | none => 0

/-- The body of a RELEASE reply: records marked and the oldest sequence as it stands (R16). -/
def State.releaseBody (s : State) (marked : Nat) : List Byte := le 4 marked ++ le 4 s.store.oldestSeq

/-- The request in service ends with REFUSED_STATE because the port's or the power's state changed: a RELEASE with its count
and the oldest (R16), a FORMAT with LOW re-evaluated (R18), any other with an empty body (R20, R84, R85). -/
def State.endRefused (s : State) : State :=
  match s.link.server with
  | .working (.release _ marked) _ => s.serverReply .refusedState (s.releaseBody marked)
  | .working (.format _) _ => (s.serverReply .refusedState []).evalLow
  | .working _ _ => s.serverReply .refusedState []
  | _ => s

/-! ## Claims (R83) -/

/-- The service link claims an operation for the request it serves, which has come as far as `job`. -/
def State.claimService (s : State) (job : Job) (op : FlashOp) : State :=
  { s with
    link := { s.link with server := .working job false }
    port := { s.port with waitService := some op } }

/-- Whether a background erase is in flight. -/
def Port.erasing (p : Port) : Bool :=
  match p.inFlight with
  | some x => decide (x.claimant = .background)
  | none => false

/-- R14, R83, R85: background erase claims its candidate, or its claim is withdrawn: outside a FORMAT and recovery, with the
port not in FAULT, one erase at a time. -/
def State.updateErase (s : State) : State :=
  let claim :=
    if s.formatting || s.recovering || s.port.fault || s.port.erasing then none
    else s.eraseCandidate.map fun sector => (⟨.erase, sector * 256, []⟩ : FlashOp)
  { s with port := { s.port with waitErase := claim } }

/-! ## Grants (R82, R84) -/

/-- The time limit of an operation in µs: 5 ms for a program, 3 s for an erase, none for a read (R82). -/
def OpKind.limit : OpKind → Option Nat
  | .pageProgram | .stateByte => some 5000
  | .pageRead => none
  | .erase => some 3000000

def State.grantWriter (s : State) (op : FlashOp) : State :=
  { s with port := { s.port with inFlight := some ⟨op, .writer, op.kind.limit⟩, waitWriter := none, lastService := false } }

def State.grantService (s : State) (op : FlashOp) : State :=
  { s with port := { s.port with inFlight := some ⟨op, .service, op.kind.limit⟩, waitService := none, lastService := true } }

def State.grantErase (s : State) (op : FlashOp) : State :=
  { s with port := { s.port with inFlight := some ⟨op, .background, op.kind.limit⟩, waitErase := none } }

/-- The arbiter's choice in MAIN (R84). -/
def State.grantMain (s : State) : State :=
  match s.port.waitWriter, s.port.waitService, s.port.waitErase with
  | some w, some v, _ => if s.port.lastService then s.grantWriter w else s.grantService v
  | some w, none, _ => s.grantWriter w
  | none, some v, _ => s.grantService v
  | none, none, some e => s.grantErase e
  | none, none, none => s

/-- R84: with the port free and recovery not holding it, one waiting claim is granted. -/
def State.grant (s : State) : State :=
  if s.port.inFlight.isSome || s.recovering then s
  else match s.monitor.power with
    | .main => s.grantMain
    | .holdup => match s.port.waitWriter with
      | some w => s.grantWriter w
      | none => s

/-- Background erase's claim is brought up to date and the arbiter grants. -/
def State.settlePort (s : State) : State := s.updateErase.grant

/-- What a change taken whole closes with: the examination it calls for (R72), and then background erase's claim and the grant
that the claims call for, an order the manual leaves open (log 15). -/
def State.finish (s : State) : State := s.examine.settlePort

/-! ## Flash faults (R85, R86, R123) -/

/-- R145: the data of WRITER_FAULT. -/
def faultData (x : OpInFlight) (byLimit : Bool) : List Byte :=
  le 1 x.op.kind.code ++ le 4 x.op.page ++ [boolByte byLimit] ++ le 1 x.claimant.code

/-- R85: a flash fault is counted. -/
def State.countFault (s : State) : State :=
  { s with commit := { s.commit with flashFaults := satInc max16 s.commit.flashFaults } }

/-- R86: the writer enters FAULT: the record in flight is abandoned, its unprogrammed blocks return, its outstanding pages
are no longer committed, its claim is withdrawn and the remaining close writes are given up. -/
def State.writerFault (s : State) : State :=
  let faulted (s : State) : State := { s with
    writer := { s.writer with state := .fault, inFlight := none, toClose := [] }
    port := { s.port with waitWriter := none } }
  match s.writer.inFlight with
  | none => faulted s
  | some f =>
    let s := (s.returnBlocks (f.chain.drop f.returned)).uncommitPages s.budget.outstanding
    faulted { s with commit := { s.commit with abandoned := satInc max16 s.commit.abandoned } }

/-- R85: a program or erase of the service link that waits when the port enters FAULT is refused, counted, and its request
ends; a page read keeps waiting. -/
def State.refuseWaiting (s : State) : State :=
  match s.port.waitService with
  | none => s
  | some op =>
    if op.kind = .pageRead then s
    else ({ s with
      port := { s.port with waitService := none }
      commit := { s.commit with refusedInFault := satInc max16 s.commit.refusedInFault } }).endRefused

/-- R85: the port enters FAULT at the first flash fault: the operation ends as R6 says, FLASH_FAULT is posted and counted, the
event WRITER_FAULT is made, the writer enters FAULT and an open epoch is closed by force. A claim of background erase that waits
is withdrawn, and not counted among the operations refused (log 48). -/
def State.enterFault (s : State) (x : OpInFlight) (byLimit : Bool) : State :=
  let s := { s with port := { s.port with
    inFlight := none, waitErase := none, fault := true, lateReport := if byLimit then some x.op.kind else none } }
  let s := s.interruptOp x.op
  let s := (s.postPlain .flashFault none (x.op.kind.code * 16777216 + x.op.page)).countFault
  let s := s.ownEvent .writer 0x0401 (faultData x byLimit)
  s.writerFault.forceClose

/-- R85: a flash fault of the operation in flight. In FAULT already it only ends the operation and is counted. A parked WAIT
that the fault resolves is answered before the request that it ends (log 15). -/
def State.flashFault (s : State) (x : OpInFlight) (byLimit : Bool) : State :=
  let t :=
    if s.port.fault then ({ s with port := { s.port with inFlight := none } }.interruptOp x.op).countFault
    else s.enterFault x byLimit
  (if x.claimant = .service then t.endRefused else t).refuseWaiting

/-- R85: the report of an operation that its time limit has already ended: a failure is counted, ready is ignored. -/
def State.lateReported (s : State) (ok : Bool) : State :=
  let s := { s with port := { s.port with lateReport := none } }
  if ok then s else s.countFault

end Sys2Proof.Machine
end

