-- ==== Sys2Proof/Machine/Trigger.lean ====
section
/-! DEFINITION. Machine/Trigger.lean: the trigger lines and the wrap of the tick (R128 to R133, R138). -/

namespace Sys2Proof.Machine

/-- R129: the filter time in µs of a filter code; 0 is none, also for a code above 15, which only a loaded image can hold
(log 10). -/
def filterTime (code : Nat) : Nat := [0, 1, 2, 4, 8, 16, 32, 64, 128, 256, 512, 1000, 2000, 5000, 10000, 20000].getD code 0

/-- The ticks count in 48 bits (R138). -/
def tickModulus : Nat := 281474976710656

/-! ## Firing (R130 to R133) -/

/-- The event code of a firing: EVENT 0x0101, OPEN 0x0102, FLUSH 0x0103 (Formats). -/
def TriggerMode.eventCode : TriggerMode → Nat
  | .off => 0
  | .event => 0x0101
  | .openEpoch => 0x0102
  | .flush => 0x0103

/-- R131 to R133: the line fires: its entry goes to the history unit, and then the line's mode asks its request of the epoch
controller. -/
def State.fire (s : State) (line : LineNo) (set : TriggerSettings) (tick inputTick : Nat) : State :=
  let s := s.placeEvent tick (.trigger line.val) set.mode.eventCode (le 1 set.prescale ++ le 6 inputTick)
  match set.mode with
  | .openEpoch => s.openRequest (.trigger line.val)
  | .flush => if s.epoch.state = .capture then s.enterFlush (.trigger line.val) s.powerGrace else s
  | _ => s

/-- R130: an active edge is taken by the prescaler, and fires the line when the count is reached. In mode OFF nothing is
counted. -/
def State.activeEdge (s : State) (line : LineNo) (tick inputTick : Nat) : State :=
  let l := s.line line
  if l.settings.mode = .off then s
  else
    let l := { l with edges := satInc max32 l.edges }
    if l.count + 1 < l.settings.prescale then s.setLine line { l with count := l.count + 1 }
    else (s.setLine line { l with count := 0, firings := satInc max16 l.firings }).fire line l.settings tick inputTick

/-- R129, R130: the filtered level changes to `level`; one of the two changes is the active edge. -/
def State.filteredTransition (s : State) (line : LineNo) (level : Bool) (tick inputTick : Nat) : State :=
  let s := s.setLine line { s.line line with level := level, run := none }
  if level = (s.line line).settings.activeHigh then s.activeEdge line tick inputTick else s

/-! ## The commands -/

/-- TRIGGER_INPUT_CHANGE: the input takes another level: a filter run ends, or starts, or at filter code 0 the filtered level
changes at once (R129). -/
def execTriggerInputChange (line : LineNo) (level : Bool) (s : State) : Host.Outcome State Fault Refusal :=
  let l := s.line line
  if level = l.input then .next s
  else if level = l.level then .next (s.setLine line { l with input := level, run := none })
  else if filterTime l.settings.filterCode = 0 then
    .next ((s.setLine line { l with input := level }).filteredTransition line level s.tick s.tick).finish
  else .next (s.setLine line { l with input := level, run := some (level, s.tick) })

/-- FILTER_RUN_COMPLETE: the filtered level takes the run's level, at the run's tick + F (R129). With no run nothing ends. -/
def execFilterRunComplete (line : LineNo) (s : State) : Host.Outcome State Fault Refusal :=
  let l := s.line line
  match l.run with
  | none => .next s
  | some (level, start) =>
    .next (s.filteredTransition line level ((start + filterTime l.settings.filterCode) % tickModulus) start).finish

/-- TICK_WRAP: the tick returns to 0 and the wrap count rises (R138), whatever the tick is when the command comes (log 2). -/
def execTickWrap (s : State) : Host.Outcome State Fault Refusal :=
  .next { s with tick := 0, wrap := satInc max16 s.wrap }

end Sys2Proof.Machine
end

