-- ==== Sys2Proof/Machine/Clock.lean ====
section
/-! DEFINITION. Machine/Clock.lean: one microsecond of the timebase: the tick rises and the running timers count down; each
that expires puts its command in the queue (R64, R82, R89, R114, R115, R117, R129, R138, R185; log 1). -/

namespace Sys2Proof.Machine

/-- A running timer one microsecond on. -/
def tickTimer (t : Option Nat) : Option Nat := t.map fun n => n - 1

/-- Whether a timer expires at this microsecond. -/
def expires (t : Option Nat) : Bool :=
  match t with
  | some n => decide (n ≤ 1)
  | none => false

/-- The command of a timer that expires. -/
def expiry (t : Option Nat) (c : Instr) : List Instr := if expires t then [c] else []

/-- Whether a line's filter run completes at a tick (R129). -/
def TriggerLine.completes (l : TriggerLine) (tick : Nat) : Bool :=
  match l.run with
  | some (_, start) => decide ((tick + tickModulus - start) % tickModulus = filterTime l.settings.filterCode)
  | none => false

/-- The filter runs that complete at a tick, in line order. -/
def State.runsDue (s : State) (tick : Nat) : List Instr :=
  ([0, 1, 2, 3, 4, 5] : List LineNo).filterMap fun line =>
    if (s.line line).completes tick then some (.filterRunComplete line) else none

/-- The time left to the limit of the operation in flight (R82). -/
def Port.limitTimer (p : Port) : Option Nat :=
  match p.inFlight with
  | some x => x.limit
  | none => none

/-- The parked WAIT's timer (R184). -/
def Link.waitTimer (l : Link) : Option Nat :=
  match l.parked with
  | some p => p.timer
  | none => none

/-- The commands of the events that this microsecond brings, the wrap of the tick first. -/
def State.dueNow (s : State) : List Instr :=
  (if tickModulus ≤ s.tick + 1 then [.tickWrap] else [])
    ++ s.runsDue ((s.tick + 1) % tickModulus)
    ++ expiry s.sweepTimer .sweepTimerExpiry ++ expiry s.monitor.scanTimer .scanTimerExpiry
    ++ expiry s.epoch.windowTimer .windowExpiry ++ expiry s.epoch.quietTimer .quietExpiry
    ++ expiry s.epoch.graceTimer .graceExpiry ++ expiry s.port.limitTimer .flashTimeLimitExpiry
    ++ expiry s.link.waitTimer .waitTimeout

/-- One microsecond passes. At the tick's largest value the command TICK_WRAP makes the return to 0 (R138). -/
def State.microsecond (s : State) : State :=
  { s with
    tick := if tickModulus ≤ s.tick + 1 then s.tick else s.tick + 1
    sweepTimer := tickTimer s.sweepTimer
    monitor := { s.monitor with scanTimer := tickTimer s.monitor.scanTimer }
    epoch := { s.epoch with
      windowTimer := tickTimer s.epoch.windowTimer
      quietTimer := tickTimer s.epoch.quietTimer
      graceTimer := tickTimer s.epoch.graceTimer }
    port := { s.port with
      inFlight := s.port.inFlight.map fun (x : OpInFlight) => { x with limit := tickTimer x.limit } }
    link := { s.link with
      parked := s.link.parked.map fun (p : Parked) => { p with timer := tickTimer p.timer } }
    pending := s.pending ++ s.dueNow }

end Sys2Proof.Machine
end

