-- ==== Sys2Proof/Machine/Jobs.lean ====
section
/-! DEFINITION. Machine/Jobs.lean: the requests that use the flash port, one operation at a time: READ-RECORD, LIST-RECORDS,
VERIFY, RELEASE, SAVE-CONFIG and FORMAT from their first claim to their reply (R11, R16 to R18, R20, R182, R183). -/

namespace Sys2Proof.Machine

/-- What a read request does next: one more page read, or its reply. -/
inductive JobStep where
  | more (job : Job) (page : Nat)
  | done (status : Status) (body : List Byte)
  /-- A reply whose body holds a free value (log 4), which counts as used. -/
  | doneFree (status : Status) (body : List Byte)
  deriving DecidableEq, Repr

/-- R84, R178: a read request goes on; one that MAIN_LOST has ended is answered REFUSED_STATE when it would read further. -/
def State.takeStep (s : State) (ended : Bool) : JobStep → State
  | .more job page => if ended then s.serverReply .refusedState [] else s.claimService job ⟨.pageRead, page, []⟩
  | .done status body => s.serverReply status body
  | .doneFree status body => { s with freeIndex := s.freeIndex + 1 }.serverReply status body

/-- The page that is `n` frame pages on. -/
def frameAdvance : Nat → Nat → Nat
  | 0, p => p
  | n + 1, p => frameAdvance n (nextFramePage p)

/-! ## READ-RECORD (R183) -/

def State.startRead (s : State) (seq offset length : Nat) : JobStep :=
  match s.lookupStart seq with
  | some p => .more (.readLookup seq offset length p) p
  | none => .done .notFound []

/-- Lookup has read the header at `p`. -/
def State.readLookedUp (s : State) (seq offset length p : Nat) (page : List Byte) : JobStep :=
  match s.lookupTake seq p page with
  | .notFound => .done .notFound []
  | .next q => .more (.readLookup seq offset length q) q
  | .found h =>
    let frame := 48 + h.payloadLen
    if frame ≤ offset then .done .badArgument []
    else
      let q := frameAdvance (offset / 256) p
      .more (.readPages q (offset / 256) offset (min (offset + length) frame) []) q

/-- Frame page `index` has been read, from which bytes `offset` to `stop` − 1 of the frame are taken. -/
def readPage (p index offset stop : Nat) (gathered page : List Byte) : JobStep :=
  let lo := offset - 256 * index
  let hi := min (stop - 256 * index) 256
  let all := gathered ++ (page.drop lo).take (hi - lo)
  if stop ≤ 256 * (index + 1) then .done .ok all
  else
    let q := nextFramePage p
    .more (.readPages q (index + 1) offset stop all) q

/-! ## LIST-RECORDS (R182) -/

/-- R182: whether a from-sequence lies below the first-record sequence of the oldest in-use sector. -/
def State.belowOldestSector (s : State) (fromSeq : Nat) : Bool :=
  match s.inUse with
  | x :: _ => x.firstSeq.any fun f => decide (fromSeq < f)
  | [] => false

/-- The page at which a listing starts to read. R182 names no start for a from-sequence above 0 that is below every first-record
sequence while the oldest in-use sector has none: the walk start of R22, the model's choice (log 49). -/
def State.listStart (s : State) (fromSeq : Nat) : Option Nat :=
  if fromSeq = 0 || s.belowOldestSector fromSeq then firstRecordPage s.inUse
  else match bestSector fromSeq s.inUse with
    | some (_, p) => some p
    | none => firstRecordPage s.inUse

/-- The reply of a listing. -/
def State.listReply (s : State) (fromSeq : Nat) (out : List (List Byte)) (skipped : Bool) (last : Option Nat)
    (atEnd : Bool) : JobStep :=
  let body (next : Nat) : List Byte :=
    le 4 s.store.oldestSeq ++ le 4 (s.store.releasedEnd.getD 0) ++ le 4 s.store.lastSeq
      ++ le 1 ((if skipped then 1 else 0) + if atEnd then 2 else 0) ++ le 4 next ++ le 1 out.length ++ out.flatten
  match last with
  | some q => if q < max32 then .done .ok (body (q + 1)) else .doneFree .ok (body (s.seqAfter q))
  | none => .done .ok (body fromSeq)

/-- The listing goes on at a page, or stops at the tail or the end of the log. -/
def State.listAt (s : State) (fromSeq count : Nat) (prev : Option Nat) (out : List (List Byte)) (skipped : Bool)
    (last : Option Nat) : Option Nat → JobStep
  | none => s.listReply fromSeq out skipped last true
  | some p =>
    if p = s.store.tail then s.listReply fromSeq out skipped last true
    else .more (.list fromSeq count p prev out skipped last) p

def State.startList (s : State) (fromSeq count : Nat) : JobStep :=
  s.listAt fromSeq count none [] false none (s.listStart fromSeq)

/-- A summary: the record's 40 header bytes, its state byte as R5 reads it. -/
def summaryOf (page : List Byte) : List Byte := stateByteReported (page.headD 0xFF) :: (page.take 40).drop 1

/-- The listing has read the header at `p`. -/
def State.listRead (s : State) (fromSeq count p : Nat) (prev : Option Nat) (out : List (List Byte)) (skipped : Bool)
    (last : Option Nat) (page : List Byte) : JobStep :=
  match headerAt prev page with
  | .erased _ => s.listReply fromSeq out skipped last true
  | .bad => s.listAt fromSeq count prev out true last (s.skipSector p)
  | .record h =>
    let listed := decide (fromSeq ≤ h.seq)
    let out' := if listed then out ++ [summaryOf page] else out
    let last' := if listed then some h.seq else last
    if count ≤ out'.length then s.listReply fromSeq out' skipped last' false
    else s.listAt fromSeq count (some h.seq) out' skipped last' (s.afterRecord p h.payloadLen)

/-! ## VERIFY (R17) -/

def State.startVerify (s : State) (seq : Nat) : JobStep :=
  match s.lookupStart seq with
  | some p => .more (.verifyLookup seq p) p
  | none => .done .notFound []

/-- Lookup has read the header at `p`. -/
def State.verifyLookedUp (s : State) (seq p : Nat) (page : List Byte) : JobStep :=
  match s.lookupTake seq p page with
  | .notFound => .done .notFound []
  | .next q => .more (.verifyLookup seq q) q
  | .found h =>
    if RecState.read h.state = .begun then .done .refusedState []
    else .more (.verifyPages p (framePages h.payloadLen) []) p

/-- The reply of VERIFY with its chain link: agrees 1, differs 2, no earlier record 3. -/
def Verified.reply (v : Verified) (chain : Nat) : JobStep :=
  .done .ok ([stateByteReported v.state] ++ le 4 v.computed ++ le 4 v.stored ++ [boolByte v.lengthAgrees]
    ++ [boolByte (decide (v.computed = v.stored))] ++ le 1 chain)

/-- The chain link: the trailer check of the nearest earlier VALID or RELEASED record is read, or there is none (R17). Which
record that is the part knows without a read of its own (log 24, log 47). -/
def State.verifyChain (s : State) (v : Verified) : JobStep :=
  match s.keptBefore v.seq with
  | none => v.reply 3
  | some r =>
    let at_ := 40 + r.payloadLen
    let q := frameAdvance (at_ / 256) r.page
    .more (.verifyTrailer v q (if at_ % 256 + 4 ≤ 256 then 1 else 2) (at_ % 256) []) q

/-- What a whole frame shows of its record. -/
def verifiedOf (frame : List Byte) : Verified :=
  let n := fieldOf frame 20 4
  { seq := fieldOf frame 4 4
    state := frame.headD 0xFF
    computed := payloadCheck (fieldOf frame 36 4) ((frame.drop 40).take n)
    stored := fieldOf frame (40 + n) 4
    lengthAgrees := decide (fieldOf frame (44 + n) 4 = n)
    prevCheck := fieldOf frame 36 4 }

/-- A page of the record has been read. -/
def State.verifyPage (s : State) (p left : Nat) (gathered page : List Byte) : JobStep :=
  let all := gathered ++ page
  if left ≤ 1 then s.verifyChain (verifiedOf all)
  else
    let q := nextFramePage p
    .more (.verifyPages q (left - 1) all) q

/-- A page of the earlier record's trailer has been read. -/
def verifyTrailerRead (v : Verified) (p left skip : Nat) (gathered page : List Byte) : JobStep :=
  let all := gathered ++ page
  if left ≤ 1 then v.reply (if fieldOf all skip 4 = v.prevCheck then 1 else 2)
  else
    let q := nextFramePage p
    .more (.verifyTrailer v q (left - 1) skip all) q

/-! ## A page read completes -/

/-- What a read request does with the page it has read; none for a request that reads nothing. -/
def State.jobRead (s : State) (page : List Byte) : Job → Option JobStep
  | .readLookup seq offset length p => some (s.readLookedUp seq offset length p page)
  | .readPages p index offset stop gathered => some (readPage p index offset stop gathered page)
  | .list fromSeq count p prev out skipped last => some (s.listRead fromSeq count p prev out skipped last page)
  | .verifyLookup seq p => some (s.verifyLookedUp seq p page)
  | .verifyPages p left gathered => some (s.verifyPage p left gathered page)
  | .verifyTrailer v p left skip gathered => some (verifyTrailerRead v p left skip gathered page)
  | .release _ _ | .save _ _ | .format _ => none

/-! ## RELEASE (R16) -/

/-- The next mark is claimed, or, past the last record to mark, the reply is sent. -/
def State.releaseNext (s : State) (upTo marked : Nat) : State :=
  match s.store.oldest with
  | some (seq, p) =>
    if seq ≤ upTo then s.claimService (.release upTo marked) ⟨.stateByte, p, [releaseByte (s.flashByte (p * 256))]⟩
    else s.serverReply .ok (s.releaseBody marked)
  | none => s.serverReply .ok (s.releaseBody marked)

/-- A mark has completed: the released prefix grows by the oldest record, oldest becomes the next one, which the part knows
without a read (log 22, log 47), and LOW is re-evaluated. Last check is kept, also when the record released was TORN and newer
than every VALID or RELEASED one (log 43). -/
def State.markReleased (s : State) : State :=
  match s.store.oldest with
  | none => s
  | some (seq, _) =>
    ({ s with store := { s.store with releasedEnd := some seq, oldest := s.oldestAfter seq } }).evalLow

/-- R16: the request after a mark. -/
def State.releaseMarkDone (s : State) (upTo marked : Nat) (ended : Bool) : State :=
  let s := s.markReleased
  if ended then s.serverReply .refusedState (s.releaseBody (marked + 1)) else s.releaseNext upTo (marked + 1)

/-! ## SAVE-CONFIG (R20) -/

/-- The active settings. -/
def State.settings (s : State) : Settings where
  lanes := s.lanes.map fun (l : Lane) => l.settings
  triggers := s.lines.map fun (l : TriggerLine) => l.settings
  domains := s.domains.map fun (p : Pend DomainEntry) => p.active
  primary := s.primary.active
  streams := s.streams.map fun (t : Stream) => t.settings.active
  aging := s.aging.active
  pool := s.poolReserve.active
  budget := s.budget.settings
  adc := s.monitor.settings
  epoch := s.epoch.settings

/-- The image that a save composes, with the next image sequence. -/
def State.composeImage (s : State) : List Byte := imageBytes (s.seqAfter s.imageSeq) s.settings

/-- The pages of the image. -/
def imagePages : Nat := 6

/-- The program of page `n` of the image. -/
def imageOp (image : List Byte) (n : Nat) : FlashOp := ⟨.pageProgram, n, (image.drop (256 * n)).take 256⟩

/-- The save has completed an operation; `next` is the page to program next. After the last page the image sequence becomes
the new one and the reply is sent. -/
def State.saveNext (s : State) (image : List Byte) (next : Nat) (ended : Bool) : State :=
  if ended then s.serverReply .refusedState []
  else if next < imagePages then s.claimService (.save image (next + 1)) (imageOp image next)
  else
    let seq := fieldOf image 0 4
    ({ s with imageSeq := seq, freeIndex := s.freeIndex + 1 }).serverReply .ok (le 4 seq)

/-! ## Erases (R14, R18) -/

/-- What a sector's leaving the log makes of the pointers (R3, R7, R8): with no sector in use the last sector sequence is 0,
with no VALID or RELEASED record present the last check is 0x00000001, and with no RELEASED one the released prefix end is
none. Last sequence and last epoch are kept (log 43). -/
def State.leaveLog (s : State) : State :=
  { s with store := { s.store with
    lastSectorSeq := if s.inUse = [] then 0 else s.store.lastSectorSeq
    lastCheck := if s.keptPresent then s.store.lastCheck else 1
    releasedEnd := if s.releasedPresent then s.store.releasedEnd else none } }

/-- A completed erase: the sector is blank and out of the log, and the erased run takes in what follows it. -/
def State.eraseDone (s : State) (sector : Nat) : State :=
  if sector = 0 then s else { ((s.setDir sector .blank).dropRecords sector).leaveLog.growRun with examDue := true }.evalLow

/-- The sectors of the log from one on, in index order. -/
def sectorsFrom : Nat → Nat → List Nat
  | 0, _ => []
  | n + 1, sector => sector :: sectorsFrom n (nextSector sector)

/-- R18: the sector that FORMAT erases first. -/
def State.formatFirst (s : State) : Nat :=
  let after := nextSector (s.store.tail / 256)
  match s.inUse with
  | x :: _ => if x.sector = s.store.tail / 256 then after else x.sector
  | [] => after

/-- R18: the sectors in the order FORMAT erases them: index order, the tail's last. -/
def State.formatOrder (s : State) : List Nat :=
  let t := s.store.tail / 256
  (sectorsFrom 511 s.formatFirst).filter (fun sector => decide (sector ≠ t)) ++ [t]

/-- R18, R7: the pointers after FORMAT, the directory all blank. -/
def State.formatReset (s : State) : State :=
  { s with
    directory := Table.replicate 512 .blank
    store := { s.store with
      tail := 256, erasedRun := 130816, oldest := none, releasedEnd := none, lastSeq := 0, lastCheck := 1,
      lastSectorSeq := 0, exhausted := false, records := [] } }

/-- FORMAT claims its next erase, or, after the last, resets the pointers and is answered. -/
def State.formatNext (s : State) : List Nat → State
  | sector :: rest => s.claimService (.format rest) ⟨.erase, sector * 256, []⟩
  | [] => (s.formatReset.serverReply .ok []).evalLow

/-- R18: FORMAT after an erase; MAIN_LOST ends it there. -/
def State.formatEraseDone (s : State) (rest : List Nat) (ended : Bool) : State :=
  if ended then (s.serverReply .refusedState []).evalLow else s.formatNext rest

end Sys2Proof.Machine
end

