-- ==== Sys2Proof/Machine/Completions.lean ====
section
/-! DEFINITION. Machine/Completions.lean: the flash's reports: the completion of each kind of operation, and the time limit
(R9, R14, R16, R18, R20, R76, R82, R84, R85). A report with no operation of its kind in flight is the late report of one whose
limit has ended it (R85), or has no effect. -/

namespace Sys2Proof.Machine

/-- The operation in flight when it is of a kind. -/
def State.inFlightOf (s : State) (kind : OpKind) : Option OpInFlight :=
  match s.port.inFlight with
  | some x => if x.op.kind = kind then some x else none
  | none => none

/-- The operation leaves the port. -/
def State.freePort (s : State) : State := { s with port := { s.port with inFlight := none } }

/-- A report of one kind: it ends the operation in flight of that kind, by `done` when the flash reports ready and as a flash
fault when it reports failure; else it is a late report, or nothing. An operation past the device's pages is no operation. -/
def State.report (s : State) (kind : OpKind) (ok : Bool) (done : State → OpInFlight → State) :
    Host.Outcome State Fault Refusal :=
  match s.inFlightOf kind with
  | some x =>
    if devicePages ≤ x.op.page then .fault (.noSuchFlashPage x.op.page)
    else if ok then .next (done s.freePort x) else .next (s.flashFault x false).finish
  | none => if s.port.lateReport = some kind then .next (s.lateReported ok) else .next s

/-! ## Page programs (R76, R87) -/

/-- A service page is counted as programmed, and the save goes on (R20, R87). -/
def State.servicePageDone (s : State) : State :=
  let s := { s with commit := { s.commit with pages := satInc max32 s.commit.pages } }
  match s.link.server with
  | .working (.save image next) ended => s.saveNext image next ended
  | _ => s

/-- A page program has completed: its bytes are in the flash, and its claimant goes on; the port is granted before a further
record is admitted. -/
def State.pageProgrammed (s : State) (x : OpInFlight) : State :=
  let s := s.programPage x.op.page x.op.data
  let s := match x.claimant with
    | .writer => s.writerPageDone
    | _ => s.servicePageDone
  s.settlePort.finish

/-- PAGE_PROGRAM_COMPLETE (R76, R82). -/
def execPageProgramComplete (ok : Bool) (s : State) : Host.Outcome State Fault Refusal :=
  s.report .pageProgram ok State.pageProgrammed

/-! ## State bytes (R9, R16) -/

/-- The mark of a RELEASE has completed. -/
def State.serviceStateByteDone (s : State) : State :=
  match s.link.server with
  | .working (.release upTo marked) ended => s.releaseMarkDone upTo marked ended
  | _ => s

/-- The record in flight turns VALID. -/
def State.writerStateByteDone (s : State) : State :=
  match s.writer.inFlight with
  | some f => s.recordValid f
  | none => s

/-- A state-byte program has completed: a record turns VALID, the port is granted, and the writer goes on; or a RELEASE mark
is done. -/
def State.stateByteProgrammed (s : State) (x : OpInFlight) : State :=
  let s := s.programPage x.op.page x.op.data
  match x.claimant with
  | .writer => s.writerStateByteDone.settlePort.writerGoesOn.finish
  | _ => s.serviceStateByteDone.settlePort.finish

/-- STATE_BYTE_PROGRAM_COMPLETE (R9, R16). -/
def execStateByteProgramComplete (ok : Bool) (s : State) : Host.Outcome State Fault Refusal :=
  s.report .stateByte ok State.stateByteProgrammed

/-! ## Page reads (R82, R84) -/

/-- A page has been read and its request goes on or is answered. -/
def State.pageRead (s : State) (x : OpInFlight) : State :=
  let t := match s.link.server with
    | .working job ended => match s.jobRead (s.page x.op.page) job with
      | some step => s.takeStep ended step
      | none => s
    | _ => s
  t.settlePort.finish

/-- PAGE_READ_COMPLETE (R82). -/
def execPageReadComplete (s : State) : Host.Outcome State Fault Refusal := s.report .pageRead true State.pageRead

/-! ## Sector erases (R14, R18, R20) -/

/-- An erase of the service link goes on with its request. -/
def State.serviceEraseDone (s : State) : State :=
  match s.link.server with
  | .working (.save image next) ended => s.saveNext image next ended
  | .working (.format rest) ended => s.formatEraseDone rest ended
  | _ => s

/-- A claim of the writer or the service link that waits when an erase ends is granted (R84); background erase places its
next claim only after the examination that the growth calls for (log 15). -/
def State.grantWaiting (s : State) : State := ({ s with port := { s.port with waitErase := none } }).grant

/-- A sector has been erased: it is blank, the erased run grows, and its claimant goes on. -/
def State.sectorErased (s : State) (x : OpInFlight) : State :=
  let sector := x.op.page / 256
  let s := (s.eraseSector sector).eraseDone sector
  let s := if x.claimant = .service then s.serviceEraseDone else s
  s.grantWaiting.finish

/-- SECTOR_ERASE_COMPLETE (R14, R18, R20). -/
def execSectorEraseComplete (ok : Bool) (s : State) : Host.Outcome State Fault Refusal :=
  s.report .erase ok State.sectorErased

/-! ## The time limit (R82, R85) -/

/-- FLASH_TIME_LIMIT_EXPIRY: the program or erase in flight reaches its time limit, which is a flash fault (R85). With none in
flight no limit runs. -/
def execFlashTimeLimitExpiry (s : State) : Host.Outcome State Fault Refusal :=
  match s.port.inFlight with
  | some x =>
    match x.limit with
    | none => .next s
    | some _ =>
      if devicePages ≤ x.op.page then .fault (.noSuchFlashPage x.op.page) else .next (s.flashFault x true).finish
  | none => .next s

end Sys2Proof.Machine
end

