-- ==== Sys2Proof/Machine/EpochEvents.lean ====
section
/-! DEFINITION. Machine/EpochEvents.lean: the expiries of the epoch's timers (R114, R115, R117). -/

namespace Sys2Proof.Machine

/-- WINDOW_EXPIRY: in CAPTURE the epoch enters FLUSH with cause WINDOW (R114). A stopped timer does not expire. -/
def execWindowExpiry (s : State) : Host.Outcome State Fault Refusal :=
  match s.epoch.windowTimer with
  | none => .next s
  | some _ =>
    let s := { s with epoch := { s.epoch with windowTimer := none } }
    if s.epoch.state = .capture then .next (s.enterFlush .window s.powerGrace).finish else .next s

/-- QUIET_EXPIRY: in CAPTURE the epoch enters FLUSH with cause QUIET (R115). A stopped timer does not expire. -/
def execQuietExpiry (s : State) : Host.Outcome State Fault Refusal :=
  match s.epoch.quietTimer with
  | none => .next s
  | some _ =>
    let s := { s with epoch := { s.epoch with quietTimer := none } }
    if s.epoch.state = .capture then .next (s.enterFlush .quiet s.powerGrace).finish else .next s

/-- GRACE_EXPIRY: in FLUSH the close of all streams is taken (R117). A stopped timer does not expire. -/
def execGraceExpiry (s : State) : Host.Outcome State Fault Refusal :=
  match s.epoch.graceTimer with
  | none => .next s
  | some _ =>
    let s := { s with epoch := { s.epoch with graceTimer := none } }
    if s.epoch.state = .flush then .next s.closeStreams.finish else .next s

end Sys2Proof.Machine
end

