-- ==== Sys2Proof/Machine/Lanes.lean ====
section
/-! DEFINITION. Machine/Lanes.lean: the lane receivers: beginning a fragment, storing a byte, the completion checks, discards
and reconfiguration, with the commands of the lane inputs (R156 to R166, R169). -/

namespace Sys2Proof.Machine

/-! ## Slots (R158) -/

def Slot.isEmpty : Slot → Bool
  | .empty => true
  | _ => false

/-- The bytes of the fragment in progress, when the lane has a FILLING slot. -/
def Lane.filling (l : Lane) : Option (List Byte) :=
  match l.slot0, l.slot1 with
  | .filling b, _ => some b
  | _, .filling b => some b
  | _, _ => none

/-- The FILLING slot takes a new content. -/
def Lane.setFilling (l : Lane) (v : Slot) : Lane :=
  match l.slot0, l.slot1 with
  | .filling _, _ => { l with slot0 := v }
  | _, .filling _ => { l with slot1 := v }
  | _, _ => l

/-- The FILLING slot becomes EMPTY. -/
def Lane.dropFilling (l : Lane) : Lane := l.setFilling .empty

/-- Whether slot 1 is the FILLING one. -/
def Lane.fillsSecond (l : Lane) : Bool :=
  match l.slot0 with
  | .filling _ => false
  | _ => true

/-! ## Discards (R166) -/

/-- A lane error is counted under its kind. -/
def LaneCounters.count (c : LaneCounters) : LaneError → LaneCounters
  | .framing => { c with framing := satInc max16 c.framing }
  | .parity => { c with parity := satInc max16 c.parity }
  | .stuffing => { c with stuffing := satInc max16 c.stuffing }
  | .overrun => { c with overrun := satInc max16 c.overrun }
  | .badHeader => { c with badHeader := satInc max16 c.badHeader }
  | .length => { c with length := satInc max16 c.length }
  | .check => { c with check := satInc max16 c.check }
  | .aborted => { c with aborted := satInc max16 c.aborted }

def Lane.countError (l : Lane) (k : LaneError) : Lane := { l with counters := l.counters.count k }

/-- The anomaly LANE_ERROR: its lane, the tick of the discard, and the error kind as detail (R166). -/
def laneErrorEntry (lane : LaneNo) (tick : Nat) (k : LaneError) : Anomaly :=
  ⟨.laneError, some lane.val, none, none, tick, k.code⟩

/-- R166: a lane error: the lane, already moved on, counts it, and posts LANE_ERROR under COUNT_AND_ANOMALY. -/
def State.laneDiscard (s : State) (lane : LaneNo) (moved : Lane) (k : LaneError) : State :=
  let t := s.setLane lane (moved.countError k)
  if moved.settings.report then t.post (laneErrorEntry lane s.tick k) else t

/-! ## Gathering -/

/-- R163: a fragment begins: an EMPTY slot becomes FILLING with these first bytes, or, with both slots HELD, the fragment is
discarded with OVERRUN. -/
def State.beginFragment (s : State) (lane : LaneNo) (first : List Byte) (escape : Bool) : State :=
  let l := s.lane lane
  let begun : Lane := { l with rx := .receiving, escape := escape, bits := [] }
  if l.slot0.isEmpty then s.setLane lane { begun with slot0 := .filling first }
  else if l.slot1.isEmpty then s.setLane lane { begun with slot1 := .filling first }
  else s.laneDiscard lane { l with rx := .skipping } .overrun

/-- The largest fragment: 264 bytes (R159, R162). -/
def maxFragment : Nat := 264

/-- A byte completes in RECEIVING: it is stored in the FILLING slot; a 265th is not stored and discards the fragment. -/
def State.storeLaneByte (s : State) (lane : LaneNo) (b : Byte) : State :=
  let l := s.lane lane
  let got := l.filling.getD []
  if got.length < maxFragment then
    s.setLane lane { l.setFilling (.filling (got ++ [b])) with escape := false, bits := [] }
  else s.laneDiscard lane { l.dropFilling with rx := .skipping, escape := false, bits := [] } .length

/-! ## Completion checks (R165) -/

/-- Whether a payload length lies in the range of its kind: 2 to 26 for EVENT, 0 to 256 otherwise. -/
def lengthInRange (k : FragKind) (n : Nat) : Bool :=
  match k with
  | .event => decide (2 ≤ n) && decide (n ≤ 26)
  | _ => decide (n ≤ 256)

/-- The first of the four checks that a fragment's bytes fail, or none. -/
def completionCheck (bytes : List Byte) : Option LaneError :=
  let n := fragmentLength bytes
  if bytes.length < 8 then some .length
  else match FragKind.ofCode (fieldOf bytes 0 1) with
    | none => some .badHeader
    | some k =>
      if lengthInRange k n = false then some .badHeader
      else if bytes.length ≠ 6 + n + 2 then some .length
      else if crcAgrees (bytes.take (6 + n)) (bytes.drop (6 + n)) then none
      else some .check

/-- The fragment in progress ends; it is HELD, or discarded by the first check it fails. The lane is then WAITING. -/
def State.endFragment (s : State) (lane : LaneNo) : State :=
  let l := s.lane lane
  let bytes := l.filling.getD []
  let ended : Lane := { l with rx := .waiting, escape := false, bits := [] }
  match completionCheck bytes with
  | some k => s.laneDiscard lane ended.dropFilling k
  | none => { s.setLane lane (ended.setFilling (.held bytes)) with
      heldOrder := s.heldOrder ++ [(lane, l.fillsSecond)] }

/-- The fragment in progress is discarded for a cause and the lane enters `rx`. -/
def State.abandonFragment (s : State) (lane : LaneNo) (rx : LaneRx) (k : LaneError) : State :=
  s.laneDiscard lane { (s.lane lane).dropFilling with rx := rx, escape := false, bits := [] } k

/-! ## CLOCKED (R159) -/

/-- The level of the select input, which the lane holds in every mode. -/
def State.setSelect (s : State) (lane : LaneNo) (level : Bool) : State :=
  s.setLane lane { s.lane lane with select := level }

/-- SELECT_ASSERTED: in CLOCKED and WAITING a fragment begins (R159, R163); an assertion that a reconfiguration of the same
moment has found already makes the lane skip, without a count (R169). A select that is already asserted does not assert
again. -/
def execSelectAsserted (lane : LaneNo) (s : State) (reconfigured : Bool := false) : Host.Outcome State Fault Refusal :=
  let l := s.lane lane
  if l.select then .next s
  else
    let s := s.setSelect lane true
    match l.settings.mode, l.rx with
    | .clocked, .waiting =>
      if reconfigured then .next (s.setLane lane { s.lane lane with rx := .skipping })
      else .next (s.beginFragment lane [] false)
    | _, _ => .next s

/-- SELECT_RELEASED: in CLOCKED the fragment in progress ends, an incomplete byte discarding it with LENGTH, or skipping ends
(R159, R165). -/
def execSelectReleased (lane : LaneNo) (s : State) : Host.Outcome State Fault Refusal :=
  let l := s.lane lane
  if l.select = false then .next s
  else
    let s := s.setSelect lane false
    match l.settings.mode, l.rx with
    | .clocked, .receiving =>
      if l.bits = [] then .next (s.endFragment lane) else .next (s.abandonFragment lane .waiting .length)
    | .clocked, .skipping => .next (s.setLane lane { s.lane lane with rx := .waiting })
    | _, _ => .next s

/-- Eight sampled bits as a byte, the first sampled the most significant (R159). -/
def byteOfBits (bits : List Bool) : Byte := BitVec.ofNat 8 (bits.foldl (fun n b => 2 * n + b.toNat) 0)

/-- CLOCK_RISING_EDGE: one bit is sampled, and the eighth completes a byte (R159). Edges while select is released, while the
lane skips or outside CLOCKED are ignored. -/
def execClockRisingEdge (lane : LaneNo) (bit : Bool) (s : State) : Host.Outcome State Fault Refusal :=
  let l := s.lane lane
  match l.settings.mode, l.rx, l.select with
  | .clocked, .receiving, true =>
    let bits := l.bits ++ [bit]
    if bits.length < 8 then .next (s.setLane lane { l with bits := bits })
    else .next (s.storeLaneByte lane (byteOfBits bits))
  | _, _, _ => .next s

/-! ## ASYNC (R161, R162) -/

/-- Whether eight data bits and their parity bit hold an odd number of ones. -/
def oddOnes (data : Byte) (parityBit : Bool) : Bool :=
  ([0, 1, 2, 3, 4, 5, 6, 7].foldl (fun p i => p != data.getLsbD i) parityBit)

/-- R161: the fault of a received byte: FRAMING for a low stop bit, also with a parity fault; PARITY under EVEN for an odd
ones count. -/
def byteFault (parityEven : Bool) (data : Byte) (parityBit stopBit : Bool) : Option LaneError :=
  if stopBit = false then some .framing
  else if parityEven && oddOnes data parityBit then some .parity
  else none

/-- R162: an errored byte, by receive state. -/
def State.asyncErrored (s : State) (lane : LaneNo) (k : LaneError) : State :=
  match (s.lane lane).rx with
  | .waiting => s.laneDiscard lane { s.lane lane with rx := .skipping } k
  | .receiving => s.abandonFragment lane .skipping k
  | _ => s

/-- R162: a good byte while a frame's bytes are being gathered. -/
def State.asyncReceiving (s : State) (lane : LaneNo) (b : Byte) : State :=
  if (s.lane lane).escape then
    if b = 0x5E ∨ b = 0x5D then s.storeLaneByte lane (b ^^^ 0x20)
    else s.abandonFragment lane (if b = 0x7E then .waiting else .skipping) .stuffing
  else if b = 0x7E then s.endFragment lane
  else if b = 0x7D then s.setLane lane { s.lane lane with escape := true }
  else s.storeLaneByte lane b

/-- R162: a good byte, by receive state. -/
def State.asyncGood (s : State) (lane : LaneNo) (b : Byte) : State :=
  match (s.lane lane).rx with
  | .skipping => if b = 0x7E then s.setLane lane { s.lane lane with rx := .waiting } else s
  | .waiting =>
    if b = 0x7E then s
    else if b = 0x7D then s.beginFragment lane [] true
    else s.beginFragment lane [b] false
  | .receiving => s.asyncReceiving lane b
  | .off => s

/-- ASYNC_LANE_BYTE: the serial input of an ASYNC lane brings a byte (R162); in another mode it is ignored (R158). -/
def execAsyncLaneByte (lane : LaneNo) (data : Byte) (parityBit stopBit : Bool) (s : State) :
    Host.Outcome State Fault Refusal :=
  match (s.lane lane).settings.mode with
  | .async =>
    match byteFault (s.lane lane).settings.parityEven data parityBit stopBit with
    | some k => .next (s.asyncErrored lane k)
    | none => .next (s.asyncGood lane data)
  | _ => .next s

/-! ## Reconfiguration (R169) -/

/-- Whether a slot's fragment is aborted by a reconfiguration: a FILLING or a HELD one. -/
def Slot.aborted (v : Slot) : Bool := !v.isEmpty

/-- R169: the fragment in progress and each HELD one are discarded with ABORTED under the settings before, the slots become
EMPTY and the lane starts in the new mode; the counters are kept. -/
def State.reconfigureLane (s : State) (lane : LaneNo) (new : LaneSettings) : State :=
  let l := s.lane lane
  let s := if l.slot0.aborted then s.laneDiscard lane (s.lane lane) .aborted else s
  let s := if l.slot1.aborted then s.laneDiscard lane (s.lane lane) .aborted else s
  { s.setLane lane { Lane.start new l.select with counters := (s.lane lane).counters } with
    heldOrder := s.heldOrder.filter fun h => decide (h.1 ≠ lane) }

end Sys2Proof.Machine
end

