-- ==== Sys2Proof/Machine/Parser.lean ====
section
/-! DEFINITION. Machine/Parser.lean: the fragment parser, the source map's lookup and the epoch gate, and the aging sweep
(R26 to R29, R39, R42 to R44, R64, R65, R143, R167, R168). -/

namespace Sys2Proof.Machine

/-! ## The source map (R28, R29) -/

/-- What lookup finds for a source address. -/
inductive Lookup where
  | unknownDomain
  | outOfSpan (span : Nat)
  | found (stream : Nat) (opens : Bool)
  deriving DecidableEq, Repr

/-- Lookup in a range of the map. -/
def lookupRange (base spanExponent unit : Nat) (opens : Bool) : Lookup :=
  if unit < 2 ^ spanExponent then .found (base + unit) opens else .outOfSpan (2 ^ spanExponent)

/-- The table entry of a domain; a number past 63 names none. -/
def State.domainEntry (s : State) (d : Nat) : Pend DomainEntry := s.domains.getD d ⟨⟨false, false, 0, 0⟩, none⟩

/-- R28: lookup through the entry in force: the primary domain when it is enabled for the domain, else the table entry. -/
def State.lookup (s : State) (a : SourceAddr) : Lookup :=
  let p := s.primary.active
  if p.enabled ∧ p.domain = a.domain then lookupRange 0 p.spanExponent a.unit p.opensEpoch
  else
    let e := (s.domainEntry a.domain).active
    if e.valid then lookupRange e.base e.spanExponent a.unit e.opensEpoch else .unknownDomain

/-- R29: the anomaly of a failed lookup: lane, source and arrival tick, no stream. -/
def State.postLookup (s : State) (lane : Nat) (a : SourceAddr) (kind : AnomalyKind) (detail : Nat) : State :=
  s.post ⟨kind, some lane, some a, none, s.tick, detail⟩

/-! ## The epoch gate (R42 to R44) -/

/-- Whether a fragment opens a record: FIRST or ONLY. -/
def FragKind.opens (k : FragKind) : Bool := decide (k = .first) || decide (k = .only)

/-- A FIRST or ONLY that the epoch state does not admit (R43, R44). -/
def State.dropNotCapturing (s : State) (f : RecFragment) : State :=
  s.dropPosted f .notCapturing (f.frag.kind.code * 256 + s.epoch.state.code)

/-- R43: a fragment in WATCH. An opening that the controller makes is completed before the fragment is handled. -/
def State.gateWatch (s : State) (f : RecFragment) : State :=
  if f.frag.kind.opens then
    if f.opens then
      let s := s.openRequest (.source f.frag.source.domain)
      if s.epoch.state = .capture then s.takeByState f else s.dropNotCapturing f
    else s.dropNotCapturing f
  else s.dropFragment f.stream

/-- R42 to R44: the two tests before the stream's state. -/
def State.gate (s : State) (f : RecFragment) : State :=
  if (s.stream f.stream).state = .barred then
    if f.frag.kind.opens then s.dropPosted f .streamBarred f.frag.kind.code else s.dropFragment f.stream
  else match s.epoch.state with
    | .watch => s.gateWatch f
    | .capture => s.takeByState f
    | .flush => if f.frag.kind.opens then s.dropNotCapturing f else s.takeByState f
    | .closed => s.dropFragment f.stream

/-! ## The parser (R167, R168) -/

/-- R143: an EVENT fragment becomes one history entry. -/
def State.takeEvent (s : State) (lane : Nat) (f : Fragment) : State :=
  let s := { s with history := { s.history with eventFragments := satInc max32 s.history.eventFragments } }
  s.placeEvent s.tick (.lane lane f.source) (fieldOf f.payload 0 2) (f.payload.drop 2)

/-- R28, R29: a record fragment is looked up and, when that succeeds, handed to reassembly. -/
def State.takeRecordFragment (s : State) (lane : Nat) (f : Fragment) : State :=
  match s.lookup f.source with
  | .unknownDomain => s.postLookup lane f.source .unknownDomain f.kind.code
  | .outOfSpan span => s.postLookup lane f.source .unitOutOfSpan span
  | .found stream opens => s.gate ⟨f, lane, s.tick, stream, opens⟩

/-- R168: a FIRST or ONLY with another number than 0 is counted and handed on with number 0. -/
def State.numberWarning (s : State) (lane : LaneNo) (f : Fragment) : State × Fragment :=
  if f.kind.opens ∧ f.number ≠ 0 then
    let l := s.lane lane
    (s.setLane lane { l with counters := { l.counters with headerWarnings := satInc max16 l.counters.headerWarnings } },
      { f with number := 0 })
  else (s, f)

/-- R168: the fragment is decoded and handed on whole. -/
def State.decodeFragment (s : State) (lane : LaneNo) (bytes : List Byte) : State :=
  match Fragment.parse bytes with
  | none => s
  | some f =>
    if f.kind = .event then s.takeEvent lane.val f
    else
      let r := s.numberWarning lane f
      r.1.takeRecordFragment lane.val r.2

/-- The bytes of a HELD slot. -/
def Slot.heldBytes : Slot → Option (List Byte)
  | .held b => some b
  | _ => none

/-- R167: the slot becomes EMPTY and the lane counts the fragment accepted. -/
def Lane.taken (l : Lane) (second : Bool) : Lane :=
  let c := { l.counters with accepted := satInc max32 l.counters.accepted }
  if second then { l with slot1 := .empty, counters := c } else { l with slot0 := .empty, counters := c }

/-- PARSER_TAKE: the parser takes the fragment that became HELD first (R167). With none HELD nothing is taken. -/
def execParserTake (s : State) : Host.Outcome State Fault Refusal :=
  match s.heldOrder with
  | [] => .next s
  | (lane, second) :: rest =>
    let s := { s with heldOrder := rest }
    let l := s.lane lane
    match (if second then l.slot1 else l.slot0).heldBytes with
    | none => .next s
    | some bytes => .next ((s.setLane lane (l.taken second)).decodeFragment lane bytes).finish

/-! ## The aging sweep (R64, R65) -/

/-- R65: the test of one stream. What the hand-over to a full commit queue posts, EVICTED or QUEUE_FULL, is posted before
AGED_OUT, an order that R152 leaves open and the model chooses (log 15). -/
def State.sweepTest (s : State) (i : Nat) : State :=
  let t := s.stream i
  match t.state with
  | .assembling =>
    if t.record.age = s.aging.active.limit then
      (s.closeRecord i .aged s.tick).post
        ⟨.agedOut, some t.record.firstLane, some t.record.source, some i, s.tick, t.record.bytes⟩
    else s.setStream i { t with record := { t.record with age := t.record.age + 1 } }
  | _ => s

/-- R64: the cursor after a test. -/
def State.nextCursor (s : State) : Nat :=
  if s.cursor < s.aging.active.last then s.cursor + 1 else s.aging.active.first

/-- SWEEP_TIMER_EXPIRY: the stream at the cursor is tested, the cursor advances and the timer starts again (R64, R65). A timer
that does not run does not expire. -/
def execSweepTimerExpiry (s : State) : Host.Outcome State Fault Refusal :=
  match s.sweepTimer with
  | none => .next s
  | some _ =>
    let s := s.sweepTest s.cursor
    .next { s with cursor := s.nextCursor, sweepTimer := sweepInterval s.aging.active.interval }.finish

end Sys2Proof.Machine
end

