-- ==== Sys2Proof/Machine/Power.lean ====
section
/-! DEFINITION. Machine/Power.lean: the scan, the comparator, and the loss and return of the main rail (R88 to R96). -/

namespace Sys2Proof.Machine

/-! ## The scan (R88 to R91) -/

/-- The scan interval in µs: a duration code of 100 µs units, code 0 read as 1 (R89). -/
def scanInterval (code : Nat) : Nat := max 1 (duration code) * 100

/-- R90: the new code replaces the oldest of the four. -/
def pushCode (codes : Table Nat 4) (a : Nat) : Table Nat 4 :=
  ⟨[a, codes.getD 0 0, codes.getD 1 0, codes.getD 2 0], rfl⟩

/-- What the comparator makes of one A1 code (R91). -/
inductive Verdict where
  | count (n : Nat)
  | lost
  | restored
  deriving DecidableEq, Repr

/-- R91: an A1 code is counted according to the power state. -/
def Monitor.compare (m : Monitor) (a : Nat) : Verdict :=
  match m.power with
  | .main =>
    if a < m.settings.failThreshold then
      if m.run + 1 < m.settings.count then .count (m.run + 1) else .lost
    else .count 0
  | .holdup =>
    if m.settings.restoreThreshold ≤ a then
      if m.run + 1 < m.settings.count then .count (m.run + 1) else .restored
    else .count 0

/-! ## MAIN_LOST (R93, R94) -/

/-- The data of MAIN_LOST and MAIN_RESTORED: the A1 code of the declaring scan and the estimate after it. -/
def State.powerData (s : State) : List Byte := le 2 s.monitor.lastA1 ++ le 4 s.budget.energy

/-- R84: MAIN_LOST and the request in service: a waiting claim is withdrawn and the request ends; with its operation in
flight it ends when that has completed. -/
def State.endServiceAtLoss (s : State) : State :=
  match s.link.server with
  | .working job _ =>
    if s.port.waitService.isSome then { s with port := { s.port with waitService := none } }.endRefused
    else { s with link := { s.link with server := .working job true } }
  | _ => s

/-- R94: the time left on the grace timer is cut to the hold-up grace; with 0 left the grace expires at once. -/
def State.cutGrace (s : State) : State :=
  match s.epoch.graceTimer with
  | none => s
  | some left =>
    let held := duration s.epoch.settings.holdupGrace * 1000
    if held = 0 then s.closeStreams
    else if held < left then { s with epoch := { s.epoch with graceTimer := some held } }
    else s

/-- R94: the epoch controller takes MAIN_LOST by the epoch state. -/
def State.epochPowerEvent (s : State) : State :=
  match s.epoch.state with
  | .watch => if s.epoch.settings.powerOpens then s.openRequest .power else s
  | .capture => s.enterFlush .power s.epoch.settings.holdupGrace
  | .flush => s.cutGrace
  | .closed => s

/-- MAIN_LOST (R93): HOLDUP; the event and its count; LOW without erasable space; the service request and the erase claim
end; the epoch controller is told. R93 leaves the order of these effects open; this one is the model's (log 15). -/
def State.mainLost (s : State) : State :=
  let s := { s with
    monitor := { s.monitor with power := .holdup, run := 0 }
    powerCounters := { s.powerCounters with losses := satInc max16 s.powerCounters.losses }
    port := { s.port with waitErase := none }
    examDue := true }
  let s := s.evalLow.ownEvent .power 0x0301 s.powerData
  s.endServiceAtLoss.epochPowerEvent

/-- MAIN_RESTORED (R95): MAIN; the event and its count; erasable space counts again. The epoch state is kept. -/
def State.mainRestored (s : State) : State :=
  let s := { s with
    monitor := { s.monitor with power := .main, run := 0 }
    powerCounters := { s.powerCounters with restorations := satInc max16 s.powerCounters.restorations }
    examDue := true }
  s.evalLow.ownEvent .power 0x0302 s.powerData

/-- The comparator's verdict takes effect. -/
def State.declare (s : State) : Verdict → State
  | .count n => { s with monitor := { s.monitor with run := n } }
  | .lost => s.mainLost
  | .restored => s.mainRestored

/-! ## The commands -/

/-- SCAN_TIMER_EXPIRY: the next scan begins (R88, R89). A timer that does not run does not expire. -/
def execScanTimerExpiry (s : State) : Host.Outcome State Fault Refusal :=
  match s.monitor.scanTimer with
  | none => .next s
  | some _ => .next { s with monitor := { s.monitor with scanning := true, scanTimer := none } }

/-- R88: the codes of a completed scan are stored, the estimate is recomputed, the scan is counted and the timer starts. -/
def State.storeScan (s : State) (a0 a1 : Nat) : State :=
  let m := s.monitor
  State.recomputeEnergy { s with
    monitor := { m with
      codes := pushCode m.codes a0, lastA1 := a1, scansSeen := min 4 (m.scansSeen + 1), scanning := false,
      scanTimer := some (scanInterval m.settings.interval) }
    powerCounters := { s.powerCounters with scans := satInc max32 s.powerCounters.scans } }

/-- SCAN_COMPLETE: the scan is taken whole (R88): codes, estimate, comparator, and with HOLDUP in force an examination of the
queue (R72, R98). With no scan in progress none completes. -/
def execScanComplete (a0 a1 : AdcCode) (s : State) : Host.Outcome State Fault Refusal :=
  if s.monitor.scanning then
    let s := (s.storeScan a0.val a1.val).declare (s.monitor.compare a1.val)
    .next { s with examDue := s.examDue || decide (s.monitor.power = PowerState.holdup) }.finish
  else .next s

end Sys2Proof.Machine
end

