-- ==== Sys2Proof/Machine/Configure.lean ====
section
/-! DEFINITION. Machine/Configure.lean: CONFIGURE, target by target: the checks in their order, the pending-copy rule and the
application (R12, R30 to R33, R35, R56, R63, R64, R89, R92, R104, R109, R134, R135, R157, R169). Each target's function answers
the status of its reply with the state after it; a refused write changes nothing. -/

namespace Sys2Proof.Machine

/-! ## The pending-copy rule (R35) -/

/-- Whether a write to a pending-copy target is held: in CAPTURE and FLUSH. -/
def State.holdsWrites (s : State) : Bool := decide (s.epoch.state = .capture) || decide (s.epoch.state = .flush)

/-- The status of a passing write to a pending-copy target. -/
def State.writeStatus (s : State) : Status := if s.holdsWrites then .pending else .applied

/-- A passing write: the active value at once, or the pending copy (R35). -/
def Pend.write {α : Type} (p : Pend α) (held : Bool) (new : α) : Pend α :=
  if held then { p with pending := some new } else ⟨new, none⟩

/-- The value a target will have once its pending copy has been applied. -/
def Pend.prospective {α : Type} (p : Pend α) : α := p.pending.getD p.active

/-! ## The source map (R30, R31) -/

/-- Whether two ranges of streams share an index. -/
def rangesMeet (base₁ span₁ base₂ span₂ : Nat) : Bool :=
  decide (base₁ < base₂ + span₂) && decide (base₂ < base₁ + span₁)

/-- Whether a range meets the range of a valid prospective table entry other than entry `skip`. -/
def meetsTable (entries : List (Pend DomainEntry)) (skip : Option Nat) (base span : Nat) : Bool :=
  entries.zipIdx.any fun e =>
    decide (some e.2 ≠ skip) && e.1.prospective.valid
      && rangesMeet base span e.1.prospective.base (2 ^ e.1.prospective.spanExponent)

/-- Whether a range meets the range of the prospective primary domain. -/
def meetsPrimary (p : Primary) (base span : Nat) : Bool := p.enabled && rangesMeet base span 0 (2 ^ p.spanExponent)

/-- R30: a domain entry is checked and written. -/
def State.writeDomain (s : State) (d : Nat) (new : DomainEntry) : Status × State :=
  let span := 2 ^ new.spanExponent
  if 63 < d ∨ 9 < new.spanExponent then (.badArgument, s)
  else if 511 < new.base ∨ 512 < new.base + span then (.badArgument, s)
  else if new.valid && (meetsTable s.domains.list (some d) new.base span
      || meetsPrimary s.primary.prospective new.base span) then (.overlap, s)
  else (s.writeStatus, { s with domains := s.domains.set d ((s.domainEntry d).write s.holdsWrites new) })

/-- R31: the primary domain is checked and written. -/
def State.writePrimary (s : State) (new : Primary) : Status × State :=
  if 63 < new.domain ∨ 9 < new.spanExponent then (.badArgument, s)
  else if new.enabled && meetsTable s.domains.list none 0 (2 ^ new.spanExponent) then (.overlap, s)
  else (s.writeStatus, { s with primary := s.primary.write s.holdsWrites new })

/-! ## Streams, aging and pool (R32, R56, R63) -/

/-- A write to one stream's settings; an applied one moves the stream into or out of BARRED (R33). -/
def Stream.write (t : Stream) (held : Bool) (new : StreamSettings) : Stream :=
  if held then { t with settings := { t.settings with pending := some new } } else t.apply new

/-- The same value written to `n` streams from `first` on. -/
def State.writeRun (s : State) (new : StreamSettings) : Nat → Nat → State
  | 0, _ => s
  | n + 1, first => ((s.setStream first ((s.stream first).write s.holdsWrites new)).writeRun new n (first + 1))

/-- R32: a run of stream settings is checked and written; the block limit byte 0 means 256. -/
def State.writeStreams (s : State) (first count enabled blockLimit : Nat) : Status × State :=
  if 511 < first ∨ count = 0 ∨ 512 < count ∨ 512 < first + count then (.badArgument, s)
  else if 1 < enabled ∨ 255 < blockLimit then (.badArgument, s)
  else (s.writeStatus, s.writeRun ⟨decide (enabled = 1), blockLimitOf blockLimit⟩ count first)

/-- R63: the aging settings are checked, the last index clamped, and written. -/
def State.writeAging (s : State) (first last interval limit : Nat) : Status × State :=
  let last := min last 511
  if 511 < first ∨ last < first ∨ limit = 0 ∨ 255 < limit ∨ 255 < interval then (.badArgument, s)
  else
    let new : AgingSettings := ⟨first, last, interval, limit⟩
    (s.writeStatus,
      if s.holdsWrites then { s with aging := { s.aging with pending := some new } } else s.applyAging new)

/-- R56: the pool reserve is clamped to 1024 and written. -/
def State.writePool (s : State) (reserve : Nat) : Status × State :=
  (s.writeStatus, { s with poolReserve := s.poolReserve.write s.holdsWrites (min reserve 1024) })

/-! ## Budget, ADC and epoch (R92, R104, R109) -/

/-- R104: the budget settings are checked, clamped and applied, and the estimate recomputed. -/
def State.writeBudget (s : State) (scale capacitance floor reserve pageCost ceiling : Nat) : Status × State :=
  if s.monitor.power = .holdup then (.refusedState, s)
  else if scale < 1000 ∨ 20000 < scale ∨ capacitance = 0 ∨ 65535 < capacitance ∨ 20000 < floor ∨ max32 < reserve
      ∨ 65535 < pageCost then (.badArgument, s)
  else
    (.applied, ({ s with budget := { s.budget with
      settings := ⟨scale, capacitance, floor, reserve, max pageCost 1, min ceiling 3⟩ } }).recomputeEnergy)

/-- R89, R92: the ADC settings are checked and applied; the comparator count returns to 0, and a running timer starts afresh
when the interval changes. -/
def State.writeAdc (s : State) (interval failThreshold restoreThreshold count : Nat) : Status × State :=
  let m := s.monitor
  if m.power = .holdup then (.refusedState, s)
  else if 4095 < failThreshold ∨ 4095 < restoreThreshold ∨ restoreThreshold ≤ failThreshold ∨ count = 0 ∨ 8 < count
      ∨ 255 < interval then (.badArgument, s)
  else
    let same := scanInterval interval = scanInterval m.settings.interval
    let timer := match m.scanTimer with
      | none => none
      | some t => if same then some t else some (scanInterval interval)
    (.applied, { s with monitor := { m with
      settings := ⟨interval, failThreshold, restoreThreshold, count⟩, run := 0, scanTimer := timer } })

/-- R12, R109: the epoch settings are checked and applied, and LOW is recomputed. -/
def State.writeEpoch (s : State) (window quiet grace holdupGrace powerOpens rearmPolicy closeReserve : Nat) :
    Status × State :=
  if s.holdsWrites then (.refusedState, s)
  else if 65535 < window ∨ 255 < quiet ∨ 255 < grace ∨ 255 < holdupGrace ∨ 1 < powerOpens
      ∨ (rearmPolicy ≠ 1 ∧ rearmPolicy ≠ 2) ∨ closeReserve < 8 ∨ 1024 < closeReserve then (.badArgument, s)
  else
    (.applied, ({ s with epoch := { s.epoch with
      settings := ⟨window, quiet, grace, holdupGrace, decide (powerOpens = 1), decide (rearmPolicy = 1),
        closeReserve⟩ } }).evalLow)

/-! ## Lanes and trigger lines (R134, R135, R157, R169) -/

/-- R157: a lane's settings are checked and applied as a reconfiguration. -/
def State.writeLane (s : State) (index mode divisor : Nat) (parityEven report : Bool) : Status × State :=
  if h : index < 16 then
    match LaneMode.ofCode mode with
    | none => (.badArgument, s)
    | some m =>
      if divisor < 16 ∨ 65535 < divisor then (.badArgument, s)
      else (.applied, s.reconfigureLane ⟨index, h⟩ ⟨m, divisor, parityEven, report⟩)
  else (.badArgument, s)

/-- R135: a line takes new settings: its prescale count 0, no filter run, its filtered level the input's, no edge. -/
def TriggerLine.reconfigure (l : TriggerLine) (new : TriggerSettings) : TriggerLine :=
  { l with settings := new, level := l.input, run := none, count := 0 }

/-- R134: a line's settings are checked and applied. -/
def State.writeTrigger (s : State) (index polarity filterCode prescale mode : Nat) : Status × State :=
  if h : index < 6 then
    match TriggerMode.ofCode mode with
    | none => (.badArgument, s)
    | some m =>
      if 1 < polarity ∨ 15 < filterCode ∨ (prescale ≠ 1 ∧ prescale ≠ 2 ∧ prescale ≠ 4 ∧ prescale ≠ 8) then
        (.badArgument, s)
      else
        let line : LineNo := ⟨index, h⟩
        (.applied, s.setLine line ((s.line line).reconfigure ⟨decide (polarity = 1), filterCode, prescale, m⟩))
  else (.badArgument, s)

/-! ## CONFIGURE -/

/-- The write of a CONFIGURE request, by its target. -/
def State.configure (s : State) : ConfigWrite → Status × State
  | .lane index mode divisor parityEven report => s.writeLane index mode divisor parityEven report
  | .trigger index polarity filterCode prescale mode => s.writeTrigger index polarity filterCode prescale mode
  | .domain index valid opens base spanExponent => s.writeDomain index ⟨valid, opens, base, spanExponent⟩
  | .primary enabled opens domain spanExponent => s.writePrimary ⟨enabled, opens, domain, spanExponent⟩
  | .streams first count enabled blockLimit => s.writeStreams first count enabled blockLimit
  | .aging first last interval limit => s.writeAging first last interval limit
  | .pool reserve => s.writePool reserve
  | .budget scale capacitance floor reserve pageCost ceiling =>
    s.writeBudget scale capacitance floor reserve pageCost ceiling
  | .adc interval failThreshold restoreThreshold count => s.writeAdc interval failThreshold restoreThreshold count
  | .epoch window quiet grace holdupGrace powerOpens rearmPolicy closeReserve =>
    s.writeEpoch window quiet grace holdupGrace powerOpens rearmPolicy closeReserve

end Sys2Proof.Machine
end

