-- ==== Sys2Proof/Machine/Replies.lean ====
section
/-! DEFINITION. Machine/Replies.lean: the reply bodies that show the part's state: IDENTIFY, STATUS, READ-CONFIG, READ-STREAM,
COUNTERS, GET-TIME, READ-HISTORY and TAKE-ANOMALIES (R37 to R39, R92, R104, R109, R137, R140, R151, R153, R170, R179 to R181,
Formats). -/

namespace Sys2Proof.Machine

/-! ## IDENTIFY and STATUS (R179, R180) -/

def ResetKind.code : ResetKind → Nat
  | .powerOn => 1 | .restart => 2

/-- The 31 bytes of the IDENTIFY reply. -/
def State.identifyBody (s : State) : List Byte :=
  le 2 0x0051 ++ le 2 0x0416 ++ le 1 0x01 ++ le 4 s.link.bitRate ++ le 1 s.lastReset.code
    ++ le 1 (if s.recovering then 1 else 2) ++ le 4 s.imageSeq ++ le 1 16 ++ le 1 6 ++ le 1 64 ++ le 2 512 ++ le 2 2048
    ++ le 1 128 ++ le 2 1024 ++ le 2 256 ++ le 1 64 ++ le 1 4 ++ le 2 1024

/-- The sequence of the record in flight, 0 when there is none (R87). -/
def Writer.sequence (w : Writer) : Nat :=
  match w.inFlight with
  | some f => f.seq
  | none => 0

/-- The newest history sequence over ring and list, 0 when both are empty. -/
def History.newest (h : History) : Nat := (((h.ring ++ h.list).getLast?).map HEntry.seq).getD 0

/-- The 70 bytes of the STATUS reply. -/
def State.statusBody (s : State) : List Byte :=
  le 1 s.epoch.state.code ++ le 2 s.epoch.number ++ le 1 s.epoch.openCause.code ++ le 1 s.epoch.openCause.arg
    ++ le 1 s.epoch.flushCause.code ++ le 1 s.epoch.flushCause.arg ++ [boolByte s.history.frozen]
    ++ le 1 s.monitor.power.code ++ le 4 s.budget.energy ++ le 4 s.budget.available ++ le 1 s.writer.state.code
    ++ le 1 s.queue.length ++ [boolByte s.port.fault] ++ le 4 s.writer.sequence ++ le 4 s.store.tail
    ++ le 4 s.store.erasedRun ++ le 4 s.store.oldestSeq ++ le 4 (s.store.releasedEnd.getD 0) ++ le 4 s.store.lastSeq
    ++ le 2 s.store.lastEpoch ++ le 1 ((if s.store.low then 1 else 0) + if s.store.exhausted then 2 else 0)
    ++ le 2 s.freeList.length ++ le 2 s.poolReserve.active ++ le 1 s.anomalies.entries.length ++ le 2 s.anomalies.lost
    ++ le 4 s.history.newest ++ le 2 s.history.list.length ++ le 1 s.link.queue.length
    ++ [boolByte s.link.parked.isSome] ++ le 6 s.tick ++ le 2 s.wrap

/-! ## READ-CONFIG (R37, R56, R63, R92, R104, R109, R137, R170) -/

/-- A target with a pending copy: the active entry, the pending flag and the pending entry (R37). -/
def pendBytes {α : Type} (p : Pend α) (bytes : α → List Byte) : List Byte :=
  bytes p.active ++ [boolByte p.pending.isSome] ++ bytes p.prospective

/-- A target without pending copies. -/
def plainBytes (entry : List Byte) : List Byte := entry ++ [0] ++ entry

def slotBytes : Slot → List Byte
  | .empty => le 1 0 ++ le 2 0 ++ le 1 0
  | .filling b => le 1 1 ++ le 2 b.length ++ le 1 0
  | .held b => le 1 2 ++ le 2 0 ++ le 1 (fieldOf b 0 1)

def Lane.readBytes (l : Lane) : List Byte :=
  plainBytes l.settings.bytes ++ le 1 l.rx.code ++ slotBytes l.slot0 ++ slotBytes l.slot1 ++ [boolByte l.ready]

/-- The filter run: none 0, toward low 1, toward high 2. -/
def runByte : Option (Bool × Nat) → Byte
  | none => 0
  | some (false, _) => 1
  | some (true, _) => 2

def TriggerLine.readBytes (l : TriggerLine) : List Byte :=
  plainBytes l.settings.bytes ++ [boolByte l.level] ++ [runByte l.run] ++ le 1 l.count

/-- The time left on a timer in µs, 0xFFFFFFFF when it is stopped. -/
def timerBytes (t : Option Nat) : List Byte := le 4 (t.getD max32)

def State.readBudget (s : State) : List Byte :=
  let b := s.budget
  plainBytes b.settings.bytes ++ le 2 (voltage s.monitor.codeUsed b.settings.scale) ++ le 4 b.energy ++ le 2 b.outstanding
    ++ le 4 b.committed ++ le 4 b.available ++ le 1 s.monitor.power.code ++ [boolByte b.exhaustionMade]

def Monitor.readBytes (m : Monitor) : List Byte :=
  plainBytes m.settings.bytes ++ le 1 m.power.code ++ le 1 m.run ++ le 2 m.lastA1 ++ m.codes.list.flatMap (le 2)
    ++ le 2 m.codeUsed ++ le 1 m.scansSeen

def State.readEpoch (s : State) : List Byte :=
  let e := s.epoch
  plainBytes e.settings.bytes ++ le 1 e.state.code ++ le 2 e.number ++ le 1 e.openCause.code ++ le 1 e.openCause.arg
    ++ le 1 e.flushCause.code ++ le 1 e.flushCause.arg ++ le 6 e.openTick ++ le 6 e.flushTick ++ timerBytes e.windowTimer
    ++ timerBytes e.quietTimer ++ timerBytes e.graceTimer ++ [boolByte e.streamsClosed] ++ [boolByte s.history.frozen]
    ++ le 2 e.tally.written ++ le 2 e.tally.lost ++ le 2 e.tally.admitted ++ [boolByte e.tally.history]

/-- The index that reads every lane or line. -/
def readAll : Nat := 0xFFFF

/-- The status and body of a READ-CONFIG reply. -/
def State.readConfig (s : State) : ConfigRead → Status × List Byte
  | .lane index =>
    if index = readAll then (.ok, s.lanes.list.flatMap Lane.readBytes)
    else if h : index < 16 then (.ok, (s.lane ⟨index, h⟩).readBytes) else (.badArgument, [])
  | .trigger index =>
    if index = readAll then (.ok, s.lines.list.flatMap TriggerLine.readBytes)
    else if h : index < 6 then (.ok, (s.line ⟨index, h⟩).readBytes) else (.badArgument, [])
  | .domain d => if 63 < d then (.badArgument, []) else (.ok, pendBytes (s.domainEntry d) DomainEntry.bytes)
  | .primary => (.ok, pendBytes s.primary Primary.bytes)
  | .streams first count =>
    if 511 < first ∨ count = 0 ∨ 64 < count ∨ 512 < first + count then (.badArgument, [])
    else (.ok, (List.range count).flatMap fun i => pendBytes (s.stream (first + i)).settings StreamSettings.bytes)
  | .aging => (.ok, pendBytes s.aging AgingSettings.bytes ++ le 2 s.cursor)
  | .pool => (.ok, pendBytes s.poolReserve (le 2) ++ le 2 s.freeList.length)
  | .budget => (.ok, s.readBudget)
  | .adc => (.ok, s.monitor.readBytes)
  | .epoch => (.ok, s.readEpoch)

/-! ## READ-STREAM (R38, R39) -/

/-- The inverse of lookup: the domain whose range holds a stream, whether it is the primary domain, and the unit. -/
def State.mapping (s : State) (i : Nat) : Option (Nat × Bool × Nat) :=
  let p := s.primary.active
  if p.enabled ∧ i < 2 ^ p.spanExponent then some (p.domain, true, i)
  else
    (s.domains.list.zipIdx.find? fun e =>
      e.1.active.valid && !(p.enabled && decide (p.domain = e.2)) && decide (e.1.active.base ≤ i)
        && decide (i < e.1.active.base + 2 ^ e.1.active.spanExponent)).map fun e => (e.2, false, i - e.1.active.base)

def mappingBytes : Option (Nat × Bool × Nat) → List Byte
  | none => le 1 0 ++ le 1 0 ++ le 2 0
  | some (d, primary, unit) => le 1 (1 + if primary then 2 else 0) ++ le 1 d ++ le 2 unit

/-- The 32 bytes of the READ-STREAM reply. -/
def State.streamBody (s : State) (i : Nat) : List Byte :=
  let t := s.stream i
  let r := t.record
  pendBytes t.settings StreamSettings.bytes ++ le 1 t.state.code ++ le 1 r.cls ++ le 2 r.expected ++ le 2 r.chain.length
    ++ le 4 r.bytes ++ le 2 r.fragCount ++ [boolByte r.gap] ++ le 1 r.missing ++ le 6 r.firstTick ++ le 1 r.firstLane
    ++ le 1 r.age ++ le 1 t.drops ++ mappingBytes (s.mapping i)

/-- R38: under TAKE the drop count is set to 0. -/
def State.takeDrops (s : State) (i : Nat) : State := s.setStream i { s.stream i with drops := 0 }

/-! ## COUNTERS (R181) -/

def LaneCounters.bytes (c : LaneCounters) : List Byte :=
  le 4 c.accepted ++ le 2 c.framing ++ le 2 c.parity ++ le 2 c.stuffing ++ le 2 c.overrun ++ le 2 c.badHeader ++ le 2 c.length
    ++ le 2 c.check ++ le 2 c.aborted ++ le 2 c.headerWarnings

def ReassemblyCounters.bytes (c : ReassemblyCounters) : List Byte :=
  [c.complete, c.completeGap, c.restarted, c.length, c.pool, c.aged, c.flushed, c.admitted, c.dropped].flatMap (le 4)

def CommitCounters.bytes (c : CommitCounters) : List Byte :=
  le 4 c.offered ++ le 2 c.evicted ++ le 2 c.queueFull ++ le 2 c.storeFull ++ le 2 c.budget ++ le 2 c.fault ++ le 4 c.written
    ++ le 4 c.pages ++ le 2 c.abandoned ++ le 2 c.flashFaults ++ le 2 c.refusedInFault

def PowerCounters.bytes (c : PowerCounters) : List Byte :=
  le 4 c.scans ++ le 2 c.losses ++ le 2 c.restorations ++ le 4 c.refusals ++ le 2 c.exhaustions

def History.counterBytes (h : History) : List Byte :=
  le 4 h.admitted ++ le 4 h.overwrites ++ le 4 h.dropped ++ le 4 h.eventFragments

def LinkCounters.bytes (c : LinkCounters) : List Byte :=
  le 4 c.queued ++ le 2 c.lineErrors ++ le 2 c.stuffingErrors ++ le 2 c.lengthErrors ++ le 2 c.crcErrors ++ le 2 c.queueFull
    ++ le 4 c.served ++ le 4 c.repliesSent ++ le 2 c.waitsParked ++ le 2 c.waitsBusy ++ le 2 c.waitTimeouts

/-- A group's counters as bytes, and the part with each of them at 0. -/
def State.counterGroup (s : State) (g : CounterGroup) (index : Nat) : Option (List Byte × State) :=
  match g with
  | .lane =>
    if h : index < 16 then
      let l := s.lane ⟨index, h⟩
      some (l.counters.bytes, s.setLane ⟨index, h⟩ { l with counters := LaneCounters.zero })
    else none
  | .trigger =>
    if h : index < 6 then
      let l := s.line ⟨index, h⟩
      some (le 4 l.edges ++ le 2 l.firings, s.setLine ⟨index, h⟩ { l with edges := 0, firings := 0 })
    else none
  | .reassembly => some (s.reassembly.bytes, { s with reassembly := ReassemblyCounters.zero })
  | .commit => some (s.commit.bytes, { s with commit := CommitCounters.zero })
  | .power => some (s.powerCounters.bytes, { s with powerCounters := PowerCounters.zero })
  | .history => some (s.history.counterBytes,
      { s with history := { s.history with admitted := 0, overwrites := 0, dropped := 0, eventFragments := 0 } })
  | .anomaly => some (le 4 s.anomalies.posted ++ le 2 s.anomalies.lost,
      { s with anomalies := { s.anomalies with posted := 0, lost := 0 } })
  | .store => some (le 2 s.store.tornRecords ++ le 2 s.store.lostPages,
      { s with store := { s.store with tornRecords := 0, lostPages := 0 } })
  | .link => some (s.link.counters.bytes, { s with link := { s.link with counters := LinkCounters.zero } })

/-! ## GET-TIME (R140) -/

/-- The present wall-clock time in microseconds, computed from the anchor. -/
def State.wallClock (s : State) (a : Anchor) : Int :=
  ((s.wrap : Int) - (a.wrap : Int)) * (tickModulus : Int) + (s.tick : Int) - (a.tick : Int)
    + ((a.seconds : Int) * 1000000 + (a.microseconds : Int))

/-- A number of seconds that a 64-bit field holds. -/
def secondsModulus : Nat := 18446744073709551616

/-- Whether the reply's fields hold the present time. -/
def State.wallFits (s : State) (a : Anchor) : Bool :=
  decide (0 ≤ s.wallClock a) && decide (s.wallClock a < (secondsModulus * 1000000 : Nat))

/-- Seconds and microseconds of the reply; outside what its fields hold, a free value (log 5). -/
def State.wallFields (s : State) (a : Anchor) : List Byte :=
  let w := s.wallClock a
  if s.wallFits a then le 8 (w.toNat / 1000000) ++ le 4 (w.toNat % 1000000)
  else
    let v := Config.wallClockOutOfRange s.freeIndex
    le 8 v.1.toNat ++ le 4 v.2.val

/-- The 42 bytes of the GET-TIME reply; an absent anchor leaves its fields 0. -/
def State.timeBody (s : State) : List Byte :=
  le 6 s.tick ++ le 2 s.wrap ++ [boolByte s.anchor.isSome] ++ anchorBytes s.anchor ++
    match s.anchor with
    | some a => s.wallFields a ++ [boolByte (decide (max16 ≤ s.wrap))]
    | none => le 8 0 ++ le 4 0 ++ [0]

/-! ## READ-HISTORY (R151) -/

/-- The ring and the list as one sequence, each entry with its place: RING 1, LIST 2. -/
def History.whole (h : History) : List (HEntry × Nat) := h.ring.map (·, 1) ++ h.list.map (·, 2)

/-- The entries from the one that carries a sequence on, when one does. -/
def entriesFrom (fromSeq : Nat) : List (HEntry × Nat) → Option (List (HEntry × Nat))
  | [] => none
  | e :: es => if e.1.seq = fromSeq then some (e :: es) else entriesFrom fromSeq es

/-- The entries a READ-HISTORY returns, and the flag NOT_PRESENT. -/
def History.chosen (h : History) (fromSeq : Nat) : List (HEntry × Nat) × Bool :=
  match entriesFrom fromSeq h.whole with
  | some es => (es, false)
  | none => if fromSeq = h.nextSeq then ([], false) else (h.whole, true)

/-- The body of the READ-HISTORY reply. -/
def History.readBody (h : History) (fromSeq count : Nat) : List Byte :=
  let c := h.chosen fromSeq
  let out := c.1.take count
  let following := match out.getLast? with
    | some e => nextHistorySeq e.1.seq
    | none => h.nextSeq
  le 4 ((h.whole.head?.map fun e => e.1.seq).getD 0) ++ le 4 h.newest ++ le 4 following
    ++ le 1 ((if c.2 then 1 else 0) + if h.frozen then 2 else 0) ++ le 2 h.lostEvents ++ le 1 out.length
    ++ out.flatMap fun e => e.1.bytes ++ le 1 e.2

/-! ## TAKE-ANOMALIES (R153) -/

/-- The body of the TAKE-ANOMALIES reply, and the queue after it. -/
def Anomalies.takeBody (q : Anomalies) (count : Nat) (take : Bool) : List Byte × Anomalies :=
  let out := q.entries.take count
  let after := if take then { q with entries := q.entries.drop count } else q
  (le 1 after.entries.length ++ le 2 q.lost ++ le 1 out.length ++ out.flatMap Anomaly.bytes, after)

end Sys2Proof.Machine
end

