-- ==== Sys2Proof/Machine/Reset.lean ====
section
/-! DEFINITION. Machine/Reset.lean: the two kinds of reset and the load of the configuration image (R6, R19, R62, R107, R127,
R138, R139, R149, R155, R158, R186, R187). -/

namespace Sys2Proof.Machine

/-- Every setting at its default. -/
def Settings.default : Settings where
  lanes := Table.replicate 16 LaneSettings.default
  triggers := Table.replicate 6 TriggerSettings.default
  domains := ⟨(List.range 64).map DomainEntry.default, by rw [List.length_map, List.length_range]⟩
  primary := Primary.default
  streams := Table.replicate 512 StreamSettings.default
  aging := AgingSettings.default
  pool := 128
  budget := BudgetSettings.default
  adc := AdcSettings.default
  epoch := EpochSettings.default

/-- What start-up takes from sector 0: the settings, the image sequence, and the detail of CONFIG_LOST when no image is
loaded. -/
structure Loaded where
  settings : Settings
  imageSeq : Nat
  lost : Option Nat
  deriving DecidableEq, Repr

/-- R19: the image of sector 0 is loaded if its length and check pass; otherwise the defaults, with CONFIG_LOST: 1 for a blank
sector, 2 for a failed check. -/
def loadImage (flash : List Host.Cell) : Loaded :=
  if Memory.isClear flash 0 65536 then ⟨Settings.default, 0, some 1⟩
  else
    let image := Memory.load flashBlank flash 0 1416
    if imagePasses image then ⟨Settings.ofBytes (image.drop 6), fieldOf image 0 4, none⟩
    else ⟨Settings.default, 0, some 2⟩

/-- The anomaly queue at the end of a reset: empty, or with CONFIG_LOST as its first entry (R155). -/
def bootAnomalies (tick : Nat) : Option Nat → Anomalies
  | none => Anomalies.start
  | some detail => ⟨[⟨.configLost, none, none, none, tick, detail⟩], 0, 1⟩

/-- The part at the end of a reset: the flash as it stands, every volatile thing at its reset value, the settings as loaded,
the live inputs as they are. Last sequence and last check keep their values until recovery (R10). -/
def State.boot (s : State) (kind : ResetKind) (tick wrap : Nat) (anchor : Option Anchor) (first second : Bool) : State :=
  let c := loadImage s.flash
  { pending := s.pending
    freeIndex := s.freeIndex
    examDue := false
    strapFirst := first
    strapSecond := second
    lastReset := kind
    recovering := true
    tick := tick
    wrap := wrap
    anchor := anchor
    imageSeq := c.imageSeq
    lanes := c.settings.lanes.zipWith (fun (set : LaneSettings) (l : Lane) => Lane.start set l.select) s.lanes
    heldOrder := []
    domains := c.settings.domains.map fun (e : DomainEntry) => (⟨e, none⟩ : Pend DomainEntry)
    primary := ⟨c.settings.primary, none⟩
    streams := c.settings.streams.map Stream.start
    aging := ⟨c.settings.aging, none⟩
    cursor := c.settings.aging.first
    sweepTimer := sweepInterval c.settings.aging.interval
    pool := s.pool
    freeList := List.range 2048
    poolReserve := ⟨c.settings.pool, none⟩
    reassembly := ReassemblyCounters.zero
    queue := []
    writer := Writer.start
    commit := CommitCounters.zero
    port := Port.start
    flash := s.flash
    store := { Store.start with lastSeq := s.store.lastSeq, lastCheck := s.store.lastCheck }
    directory := Table.replicate 512 .unknown
    monitor := Monitor.start c.settings.adc
    budget := Budget.start c.settings.budget
    powerCounters := PowerCounters.zero
    epoch := Epoch.start c.settings.epoch
    lines := c.settings.triggers.zipWith (fun (set : TriggerSettings) (l : TriggerLine) => TriggerLine.start set l.input)
      s.lines
    history := History.start
    anomalies := bootAnomalies tick c.lost
    link := Link.start (bitRateOf first second) }

/-- R6, R10: a reset stops the flash operation in flight where it had come. -/
def State.stopFlash (s : State) : State :=
  match s.port.inFlight with
  | some x => s.interruptOp x.op
  | none => s

/-- R127, R138, R139: a power-on reset: the tick starts at 0 and the anchor is absent. -/
def State.powerOn (s : State) (strapFirst strapSecond : Bool) : State :=
  s.stopFlash.boot .powerOn 0 0 none strapFirst strapSecond

/-- POWER_ON_RESET: the supply monitor, RESET_N or power-up (R127). -/
def execPowerOnReset (strapFirst strapSecond : Bool) (s : State) : Host.Outcome State Fault Refusal :=
  .next (s.powerOn strapFirst strapSecond)

/-- R186: the reset that RESTART causes keeps the tick, the wrap count and the anchor; the straps are sampled again. -/
def State.restart (s : State) (strapFirst strapSecond : Bool) : State :=
  s.stopFlash.boot .restart s.tick s.wrap s.anchor strapFirst strapSecond

end Sys2Proof.Machine
end

