-- ==== Sys2Proof/Machine/Server.lean ====
section
/-! DEFINITION. Machine/Server.lean: the server of the service link: the common tests, every request's own tests and effect,
parking, and the request queue (R15, R17, R18, R20, R113, R118, R126, R139, R144, R174, R175, R178, R182 to R186). -/

namespace Sys2Proof.Machine

/-! ## The common tests (R178) -/

/-- Test 4: the requests that HOLDUP refuses. -/
def Request.refusedInHoldup : Request → Bool
  | .readRecord _ _ _ | .listRecords _ _ | .verify _ | .release _ _ | .saveConfig | .format => true
  | .configure (.budget _ _ _ _ _ _) | .configure (.adc _ _ _ _) => true
  | _ => false

/-- The status with which a common test answers a request, if one does: the kind, recovery (which excepts IDENTIFY, of kind 1,
whatever its body), the body, the power. -/
def State.commonTest (s : State) (r : Request) : Option Status :=
  match r with
  | .unknown _ => some .unknownRequest
  | .identify => none
  | .malformed 1 => some .badArgument
  | _ =>
    if s.recovering then some .retry
    else match r with
      | .malformed _ => some .badArgument
      | _ => if s.monitor.power = .holdup ∧ r.refusedInHoldup = true then some .refusedState else none

/-! ## Requests without the flash port -/

/-- CONFIGURE: the write and its status. A parked WAIT that the write resolves (a LANE_ERROR of R169 that joins an empty anomaly
queue) is answered before the request (log 15). -/
def State.serveConfigure (s : State) (w : ConfigWrite) : State :=
  let r := s.configure w
  r.2.serverReply r.1 []

/-- READ-CONFIG. -/
def State.serveReadConfig (s : State) (r : ConfigRead) : State :=
  let a := s.readConfig r
  s.serverReply a.1 a.2

/-- SET-TIME, SET: the anchor is paired with the arrival (R139). -/
def State.serveSetTime (s : State) (q : Queued) (seconds microseconds : Nat) : State :=
  if 999999 < microseconds then s.serverReply .badArgument []
  else
    { s with anchor := some ⟨seconds, microseconds, q.tick, q.wrap⟩ }.serverReply .ok
      (le 6 q.tick ++ [boolByte s.anchor.isSome])

/-- SET-TIME, CLEAR: the anchor becomes absent. -/
def State.serveClearTime (s : State) (q : Queued) : State :=
  { s with anchor := none }.serverReply .ok (le 6 q.tick ++ [boolByte s.anchor.isSome])

/-- GET-TIME; a present time that the reply's fields cannot hold is a free value, which counts as used (log 5). -/
def State.serveGetTime (s : State) : State :=
  if s.anchor.all s.wallFits then s.serverReply .ok s.timeBody
  else { s with freeIndex := s.freeIndex + 1 }.serverReply .ok s.timeBody

/-- The placement byte of LOG and the sequence the entry got: RING 1, LIST 2, DROPPED 3 with 0 (R144). -/
def History.logBody (h : History) : List Byte :=
  match h.placeOf with
  | .ring => le 1 1 ++ le 4 h.nextSeq
  | .list => le 1 2 ++ le 4 h.nextSeq
  | .dropped => le 1 3 ++ le 4 0

/-- LOG: a history entry with origin SERVICE (R144). -/
def State.serveLog (s : State) (code : Nat) (data : List Byte) : State :=
  if 24 < data.length then s.serverReply .badArgument []
  else (s.placeEvent s.tick .service code data).serverReply .ok s.history.logBody

/-- OPEN: an opening request with cause SERVICE (R113). A parked WAIT that the opening resolves is answered first (log 15). -/
def State.serveOpen (s : State) : State :=
  let t := s.openRequest .service
  match s.epoch.state with
  | .watch =>
    if s.openObstacle = 0 then (t.serverReply .ok (le 2 t.epoch.number)).finish
    else t.serverReply .refusedState (le 1 s.openObstacle)
  | x => t.serverReply .refusedState (le 1 x.code)

/-- FLUSH (R118). A parked WAIT that it resolves is answered first (log 15). -/
def State.serveFlush (s : State) (noGrace : Bool) : State :=
  match s.epoch.state with
  | .capture => ((s.enterFlush .service (if noGrace then 0 else s.powerGrace)).serverReply .ok []).finish
  | .flush => if noGrace then (s.closeStreams.serverReply .ok []).finish else s.serverReply .ok []
  | x => s.serverReply .refusedState (le 1 x.code)

/-- REARM (R126). A parked WAIT that it resolves is answered first (log 15). -/
def State.serveRearm (s : State) : State :=
  match s.epoch.state with
  | .closed =>
    if s.rearmObstacle = 0 then (s.rearm 1).serverReply .ok [] else s.serverReply .refusedState (le 1 s.rearmObstacle)
  | x => s.serverReply .refusedState (le 1 x.code)

/-- READ-STREAM (R38). -/
def State.serveReadStream (s : State) (i : Nat) (take : Bool) : State :=
  if 511 < i then s.serverReply .badArgument []
  else (if take then s.takeDrops i else s).serverReply .ok (s.streamBody i)

/-- TAKE-ANOMALIES (R153). -/
def State.serveTakeAnomalies (s : State) (count : Nat) (take : Bool) : State :=
  if count = 0 ∨ 32 < count then s.serverReply .badArgument []
  else
    let r := s.anomalies.takeBody count take
    { s with anomalies := r.2 }.serverReply .ok r.1

/-- READ-HISTORY (R151). -/
def State.serveReadHistory (s : State) (fromSeq count : Nat) : State :=
  if count = 0 ∨ 16 < count then s.serverReply .badArgument []
  else s.serverReply .ok (s.history.readBody fromSeq count)

/-- COUNTERS (R181). -/
def State.serveCounters (s : State) (g : CounterGroup) (index : Nat) (take : Bool) : State :=
  match s.counterGroup g index with
  | none => s.serverReply .badArgument []
  | some (body, cleared) => (if take then cleared else s).serverReply .ok body

/-- RESTART (R186): the reset follows when the reply has been sent. -/
def State.serveRestart (s : State) (force : Bool) : State :=
  if s.holdsWrites ∧ force = false then s.serverReply .refusedState (le 1 s.epoch.state.code)
  else s.replyWith .ok [] true

/-! ## WAIT (R184) -/

/-- WAIT: BUSY while one is parked, answered at once when its condition holds, parked otherwise, which takes it from the
queue. -/
def State.serveWait (s : State) (q : Queued) (cond : WaitCond) (timeout : Nat) : State :=
  let c := s.link.counters
  if s.link.parked.isSome then
    { s with link := { s.link with counters := { c with waitsBusy := satInc max16 c.waitsBusy } } }.serverReply .busy []
  else if s.waitHolds cond then s.serverReply .ok (s.waitBody cond)
  else { s with link := { s.link with
    queue := s.link.queue.drop 1
    parked := some ⟨q.tag, cond, msTimer timeout⟩
    counters := { c with served := satInc max32 c.served, waitsParked := satInc max16 c.waitsParked } } }

/-! ## Requests that use the flash port -/

/-- READ-RECORD (R183). -/
def State.serveReadRecord (s : State) (seq offset length : Nat) : State :=
  if length = 0 ∨ 1024 < length then s.serverReply .badArgument []
  else (s.takeStep false (s.startRead seq offset length)).settlePort

/-- LIST-RECORDS (R182). -/
def State.serveListRecords (s : State) (fromSeq count : Nat) : State :=
  if count = 0 ∨ 16 < count then s.serverReply .badArgument []
  else (s.takeStep false (s.startList fromSeq count)).settlePort

/-- VERIFY (R17). -/
def State.serveVerify (s : State) (seq : Nat) : State := (s.takeStep false (s.startVerify seq)).settlePort

/-- The release limit (R15, test 6). -/
def State.releaseLimit (s : State) : Nat :=
  if s.holdsWrites then
    match s.writer.openMarkSeq with
    | some q => q - 1
    | none => s.store.lastSeq
  else s.store.lastSeq

/-- RELEASE: the tests of R15, then the marks of R16. -/
def State.serveRelease (s : State) (upTo expected : Nat) : State :=
  if s.port.fault then s.serverReply .refusedState []
  else if s.store.oldestSeq ≠ expected then s.serverReply .mismatch (le 4 s.store.oldestSeq)
  else match s.store.oldest with
    | none => s.serverReply .ok (s.releaseBody 0)
    | some o =>
      if upTo < o.1 then s.serverReply .badArgument []
      else if s.releaseLimit < upTo then s.serverReply .refusedState []
      else (s.releaseNext upTo 0).settlePort

/-- SAVE-CONFIG: refused in CAPTURE, FLUSH and FAULT; else the erase of sector 0 is claimed (R20). -/
def State.serveSaveConfig (s : State) : State :=
  if s.holdsWrites || s.port.fault then s.serverReply .refusedState []
  else (s.claimService (.save s.composeImage 0) ⟨.erase, 0, []⟩).settlePort

/-- Whether a record present is VALID, TORN or BEGUN (R18). -/
def State.liveRecord (s : State) : Bool :=
  s.store.oldest.isSome || match s.writer.inFlight with
    | some f => f.start.isSome
    | none => false

/-- FORMAT: refused in FAULT, CAPTURE and FLUSH and with a live record; else LOW is set and the erases begin (R18). -/
def State.serveFormat (s : State) : State :=
  if s.port.fault || s.holdsWrites || s.liveRecord then s.serverReply .refusedState []
  else (s.formatNext s.formatOrder).evalLow.settlePort

/-! ## The server (R175) -/

/-- The request's own tests and effect. -/
def State.serveOwn (s : State) (q : Queued) : State :=
  match q.req with
  | .unknown _ | .malformed _ => s
  | .identify => s.serverReply .ok s.identifyBody
  | .status => s.serverReply .ok s.statusBody
  | .configure w => s.serveConfigure w
  | .readConfig r => s.serveReadConfig r
  | .saveConfig => s.serveSaveConfig
  | .setTime seconds microseconds => s.serveSetTime q seconds microseconds
  | .clearTime => s.serveClearTime q
  | .getTime => s.serveGetTime
  | .log code data => s.serveLog code data
  | .openEpoch => s.serveOpen
  | .flush noGrace => s.serveFlush noGrace
  | .rearm => s.serveRearm
  | .listRecords fromSeq count => s.serveListRecords fromSeq count
  | .readRecord seq offset length => s.serveReadRecord seq offset length
  | .verify seq => s.serveVerify seq
  | .release upTo expected => s.serveRelease upTo expected
  | .format => s.serveFormat
  | .readStream i take => s.serveReadStream i take
  | .takeAnomalies count take => s.serveTakeAnomalies count take
  | .readHistory fromSeq count => s.serveReadHistory fromSeq count
  | .counters g index take => s.serveCounters g index take
  | .wait cond timeout => s.serveWait q cond timeout
  | .restart force => s.serveRestart force

/-- The server takes a request: a common test answers it, or its own rule does. -/
def State.serve (s : State) (q : Queued) : State :=
  match s.commonTest q.req with
  | some status => s.serverReply status []
  | none => s.serveOwn q

/-- The server, while it is free, takes the request at the head of the queue; a parked WAIT lets it take the next. -/
def State.serveNext : Nat → State → State
  | 0, s => s
  | fuel + 1, s =>
    match s.link.server, s.link.queue with
    | .free, q :: _ => State.serveNext fuel (s.serve q)
    | _, _ => s

/-- The server serves as long as it can. -/
def State.serveAll (s : State) : State := State.serveNext s.link.queue.length s

/-! ## The request queue (R174) -/

def requestCapacity : Nat := 4

/-- A request received whole is offered to the queue: it joins with its arrival tick, or is discarded unanswered; a free
server then takes it. -/
def State.arrive (s : State) (req : Request) (tag : Byte) : State :=
  let c := s.link.counters
  if s.link.queue.length < requestCapacity then
    { s with link := { s.link with
      queue := s.link.queue ++ [(⟨req, tag, s.tick, s.wrap⟩ : Queued)]
      counters := { c with queued := satInc max32 c.queued } } }.serveAll
  else { s with link := { s.link with counters := { c with queueFull := satInc max16 c.queueFull } } }

end Sys2Proof.Machine
end

