-- ==== Sys2Proof/Machine/Link.lean ====
section
/-! DEFINITION. Machine/Link.lean: the commands of the service link: the frame receiver, the reply transmitter, the parked
WAIT's timer, and each request of the catalogue received whole (R171 to R187). A request command says that a frame of that
kind, tag and body has passed the checks of R173: the request meets the queue (R174) and the server (R175). -/

namespace Sys2Proof.Machine

/-! ## The frame receiver (R172, R173) -/

/-- A frame is discarded: nothing is gathered, the receiver goes to `rx`, and its cause is counted. -/
def State.dropFrame (s : State) (rx : LinkRx) (count : LinkCounters → LinkCounters) : State :=
  { s with link := { s.link with rx := rx, gathered := [], escape := false, counters := count s.link.counters } }

def countLineError (c : LinkCounters) : LinkCounters := { c with lineErrors := satInc max16 c.lineErrors }
def countStuffingError (c : LinkCounters) : LinkCounters := { c with stuffingErrors := satInc max16 c.stuffingErrors }
def countLengthError (c : LinkCounters) : LinkCounters := { c with lengthErrors := satInc max16 c.lengthErrors }
def countCrcError (c : LinkCounters) : LinkCounters := { c with crcErrors := satInc max16 c.crcErrors }

/-- The largest request frame: 1,030 bytes (R172). -/
def maxFrame : Nat := 1030

/-- A byte is stored; a 1,031st discards the frame as a length error. -/
def State.storeFrameByte (s : State) (b : Byte) : State :=
  if s.link.gathered.length < maxFrame then
    { s with link := { s.link with rx := .gathering, gathered := s.link.gathered ++ [b], escape := false } }
  else s.dropFrame .hunting countLengthError

/-- R173: the length check of a gathered frame. -/
def frameLengthFits (bytes : List Byte) : Bool :=
  let n := fieldOf bytes 2 2
  decide (6 ≤ bytes.length) && decide (n ≤ 1024) && decide (bytes.length = 4 + n + 2)

/-- R173: a frame has ended; it is discarded by the first check it fails, or offered to the request queue. The receiver is
BETWEEN. -/
def State.endFrame (s : State) : State :=
  let bytes := s.link.gathered
  let n := fieldOf bytes 2 2
  if frameLengthFits bytes = false then s.dropFrame .between countLengthError
  else if crcAgrees (bytes.take (4 + n)) (bytes.drop (4 + n)) = false then s.dropFrame .between countCrcError
  else (s.dropFrame .between id).arrive (Request.ofFrame (fieldOf bytes 0 1) ((bytes.drop 4).take n)) (bytes.getD 1 0)

/-- R172: a good byte in GATHERING. -/
def State.gatherByte (s : State) (b : Byte) : State :=
  if s.link.escape then
    if b = 0x5E ∨ b = 0x5D then s.storeFrameByte (b ^^^ 0x20)
    else s.dropFrame (if b = 0x7E then .between else .hunting) countStuffingError
  else if b = 0x7E then s.endFrame
  else if b = 0x7D then { s with link := { s.link with escape := true } }
  else s.storeFrameByte b

/-- R172: a good byte, by receive state. -/
def State.linkGood (s : State) (b : Byte) : State :=
  match s.link.rx with
  | .hunting => if b = 0x7E then { s with link := { s.link with rx := .between } } else s
  | .between =>
    if b = 0x7E then s
    else if b = 0x7D then { s with link := { s.link with rx := .gathering, gathered := [], escape := true } }
    else { s with link := { s.link with gathered := [] } }.storeFrameByte b
  | .gathering => s.gatherByte b

/-- R172: a line error, by receive state. -/
def State.linkError (s : State) : State :=
  match s.link.rx with
  | .hunting => s
  | _ => s.dropFrame .hunting countLineError

/-- SERVICE_LINE_BYTE: the service line brings a byte; one whose stop bit reads low is a line error (R171, R172). -/
def execServiceLineByte (data : Byte) (stopBit : Bool) (s : State) : Host.Outcome State Fault Refusal :=
  if stopBit then .next (s.linkGood data) else .next s.linkError

/-! ## The transmitter (R176, R186) -/

/-- The reply at the head has been sent: its bytes have stood on the line, and it is counted. -/
def State.sendHead (s : State) (r : Reply) (rest : List Reply) : State :=
  let c := s.link.counters
  { s with link := { s.link with
    tx := rest
    lineOut := lineFrame r.frame
    counters := { c with repliesSent := satInc max32 c.repliesSent } } }

/-- REPLY_SENT: the last byte of a reply has been sent. A reply of the server frees its request's place, and the server takes
the next; the reply of an accepted RESTART resets the part, which samples the straps (R175, R176, R186). With no reply to
send none is sent. -/
def execReplySent (s : State) (strapFirst : Bool := false) (strapSecond : Bool := false) : Host.Outcome State Fault Refusal :=
  match s.link.tx with
  | [] => .next s
  | r :: rest =>
    let t := s.sendHead r rest
    if r.reset then
      let u := t.restart strapFirst strapSecond
      .next { u with link := { u.link with lineOut := t.link.lineOut } }
    else if r.server then
      .next { t with link := { t.link with queue := t.link.queue.drop 1, server := .free } }.serveAll
    else .next t

/-! ## The parked WAIT (R185) -/

/-- WAIT_TIMEOUT: the parked WAIT's timer expires: TIMEOUT with the present value its condition reads. With no timer running
none expires. -/
def execWaitTimeout (s : State) : Host.Outcome State Fault Refusal :=
  match s.link.parked with
  | some ⟨tag, cond, some t⟩ =>
    let c := s.link.counters
    .next ({ s with link := { s.link with counters := { c with waitTimeouts := satInc max16 c.waitTimeouts } } }.answerWait
      ⟨tag, cond, some t⟩ .timeout (s.waitBody cond))
  | _ => .next s

/-! ## The requests of the catalogue -/

/-- UNKNOWN_KIND_REQUEST: a kind that is not in the catalogue (R178, test 1); a kind of the catalogue comes with a body that
cannot be read. -/
def execUnknownKindRequest (tag : Byte) (kind : Nat) (s : State) : Host.Outcome State Fault Refusal :=
  .next (s.arrive (if kind = 0 ∨ largestKind < kind then .unknown kind else .malformed kind) tag)

/-- IDENTIFY (R179). -/
def execIdentify (tag : Byte) (s : State) : Host.Outcome State Fault Refusal := .next (s.arrive .identify tag)

/-- STATUS (R180). -/
def execStatus (tag : Byte) (s : State) : Host.Outcome State Fault Refusal := .next (s.arrive .status tag)

/-- CONFIGURE_LANE (R157). -/
def execConfigureLane (tag : Byte) (lane mode divisor : Nat) (parityEven report : Bool) (s : State) :
    Host.Outcome State Fault Refusal := .next (s.arrive (.configure (.lane lane mode divisor parityEven report)) tag)

/-- CONFIGURE_TRIGGER (R134). -/
def execConfigureTrigger (tag : Byte) (line polarity filterCode prescale mode : Nat) (s : State) :
    Host.Outcome State Fault Refusal :=
  .next (s.arrive (.configure (.trigger line polarity filterCode prescale mode)) tag)

/-- CONFIGURE_DOMAIN (R30). -/
def execConfigureDomain (tag : Byte) (domain : Nat) (valid opensEpoch : Bool) (base spanExponent : Nat) (s : State) :
    Host.Outcome State Fault Refusal :=
  .next (s.arrive (.configure (.domain domain valid opensEpoch base spanExponent)) tag)

/-- CONFIGURE_PRIMARY (R31). -/
def execConfigurePrimary (tag : Byte) (enabled opensEpoch : Bool) (domain spanExponent : Nat) (s : State) :
    Host.Outcome State Fault Refusal :=
  .next (s.arrive (.configure (.primary enabled opensEpoch domain spanExponent)) tag)

/-- CONFIGURE_STREAMS (R32). -/
def execConfigureStreams (tag : Byte) (first count enabled blockLimit : Nat) (s : State) :
    Host.Outcome State Fault Refusal := .next (s.arrive (.configure (.streams first count enabled blockLimit)) tag)

/-- CONFIGURE_AGING (R63). -/
def execConfigureAging (tag : Byte) (first last interval limit : Nat) (s : State) : Host.Outcome State Fault Refusal :=
  .next (s.arrive (.configure (.aging first last interval limit)) tag)

/-- CONFIGURE_POOL (R56). -/
def execConfigurePool (tag : Byte) (reserve : Nat) (s : State) : Host.Outcome State Fault Refusal :=
  .next (s.arrive (.configure (.pool reserve)) tag)

/-- CONFIGURE_BUDGET (R104). -/
def execConfigureBudget (tag : Byte) (scale capacitance floor reserve pageCost ceiling : Nat) (s : State) :
    Host.Outcome State Fault Refusal :=
  .next (s.arrive (.configure (.budget scale capacitance floor reserve pageCost ceiling)) tag)

/-- CONFIGURE_ADC (R92). -/
def execConfigureAdc (tag : Byte) (interval failThreshold restoreThreshold count : Nat) (s : State) :
    Host.Outcome State Fault Refusal :=
  .next (s.arrive (.configure (.adc interval failThreshold restoreThreshold count)) tag)

/-- CONFIGURE_EPOCH (R109). -/
def execConfigureEpoch (tag : Byte) (window quiet grace holdupGrace powerOpens rearmPolicy closeReserve : Nat)
    (s : State) : Host.Outcome State Fault Refusal :=
  .next (s.arrive (.configure (.epoch window quiet grace holdupGrace powerOpens rearmPolicy closeReserve)) tag)

/-- READ_CONFIG_LANE (R170). -/
def execReadConfigLane (tag : Byte) (index : Nat) (s : State) : Host.Outcome State Fault Refusal :=
  .next (s.arrive (.readConfig (.lane index)) tag)

/-- READ_CONFIG_TRIGGER (R137). -/
def execReadConfigTrigger (tag : Byte) (index : Nat) (s : State) : Host.Outcome State Fault Refusal :=
  .next (s.arrive (.readConfig (.trigger index)) tag)

/-- READ_CONFIG_DOMAIN (R37). -/
def execReadConfigDomain (tag : Byte) (domain : Nat) (s : State) : Host.Outcome State Fault Refusal :=
  .next (s.arrive (.readConfig (.domain domain)) tag)

/-- READ_CONFIG_PRIMARY (R37). -/
def execReadConfigPrimary (tag : Byte) (s : State) : Host.Outcome State Fault Refusal :=
  .next (s.arrive (.readConfig .primary) tag)

/-- READ_CONFIG_STREAMS (R37). -/
def execReadConfigStreams (tag : Byte) (first count : Nat) (s : State) : Host.Outcome State Fault Refusal :=
  .next (s.arrive (.readConfig (.streams first count)) tag)

/-- READ_CONFIG_AGING (R63). -/
def execReadConfigAging (tag : Byte) (s : State) : Host.Outcome State Fault Refusal :=
  .next (s.arrive (.readConfig .aging) tag)

/-- READ_CONFIG_POOL (R56). -/
def execReadConfigPool (tag : Byte) (s : State) : Host.Outcome State Fault Refusal :=
  .next (s.arrive (.readConfig .pool) tag)

/-- READ_CONFIG_BUDGET (R104). -/
def execReadConfigBudget (tag : Byte) (s : State) : Host.Outcome State Fault Refusal :=
  .next (s.arrive (.readConfig .budget) tag)

/-- READ_CONFIG_ADC (R92). -/
def execReadConfigAdc (tag : Byte) (s : State) : Host.Outcome State Fault Refusal :=
  .next (s.arrive (.readConfig .adc) tag)

/-- READ_CONFIG_EPOCH (R109). -/
def execReadConfigEpoch (tag : Byte) (s : State) : Host.Outcome State Fault Refusal :=
  .next (s.arrive (.readConfig .epoch) tag)

/-- SAVE_CONFIG (R20). -/
def execSaveConfig (tag : Byte) (s : State) : Host.Outcome State Fault Refusal := .next (s.arrive .saveConfig tag)

/-- SET_TIME_SET (R139). -/
def execSetTimeSet (tag : Byte) (seconds microseconds : Nat) (s : State) : Host.Outcome State Fault Refusal :=
  .next (s.arrive (.setTime seconds microseconds) tag)

/-- SET_TIME_CLEAR (R139). -/
def execSetTimeClear (tag : Byte) (s : State) : Host.Outcome State Fault Refusal := .next (s.arrive .clearTime tag)

/-- GET_TIME (R140). -/
def execGetTime (tag : Byte) (s : State) : Host.Outcome State Fault Refusal := .next (s.arrive .getTime tag)

/-- LOG (R144). -/
def execLog (tag : Byte) (code : Nat) (data : List Byte) (s : State) : Host.Outcome State Fault Refusal :=
  .next (s.arrive (.log code data) tag)

/-- OPEN (R113). -/
def execOpen (tag : Byte) (s : State) : Host.Outcome State Fault Refusal := .next (s.arrive .openEpoch tag)

/-- FLUSH (R118). -/
def execFlush (tag : Byte) (choice : Nat) (s : State) : Host.Outcome State Fault Refusal :=
  .next (s.arrive (.ofFlush choice) tag)

/-- REARM (R126). -/
def execRearm (tag : Byte) (s : State) : Host.Outcome State Fault Refusal := .next (s.arrive .rearm tag)

/-- LIST_RECORDS (R182). -/
def execListRecords (tag : Byte) (fromSeq count : Nat) (s : State) : Host.Outcome State Fault Refusal :=
  .next (s.arrive (.listRecords fromSeq count) tag)

/-- READ_RECORD (R183). -/
def execReadRecord (tag : Byte) (seq offset length : Nat) (s : State) : Host.Outcome State Fault Refusal :=
  .next (s.arrive (.readRecord seq offset length) tag)

/-- VERIFY (R17). -/
def execVerify (tag : Byte) (seq : Nat) (s : State) : Host.Outcome State Fault Refusal :=
  .next (s.arrive (.verify seq) tag)

/-- RELEASE (R15, R16). -/
def execRelease (tag : Byte) (upTo expectedOldest : Nat) (s : State) : Host.Outcome State Fault Refusal :=
  .next (s.arrive (.release upTo expectedOldest) tag)

/-- FORMAT (R18). -/
def execFormat (tag : Byte) (s : State) : Host.Outcome State Fault Refusal := .next (s.arrive .format tag)

/-- READ_STREAM_PEEK (R38). -/
def execReadStreamPeek (tag : Byte) (stream : Nat) (s : State) : Host.Outcome State Fault Refusal :=
  .next (s.arrive (.readStream stream false) tag)

/-- READ_STREAM_TAKE (R38). -/
def execReadStreamTake (tag : Byte) (stream : Nat) (s : State) : Host.Outcome State Fault Refusal :=
  .next (s.arrive (.readStream stream true) tag)

/-- TAKE_ANOMALIES_TAKE (R153). -/
def execTakeAnomaliesTake (tag : Byte) (count : Nat) (s : State) : Host.Outcome State Fault Refusal :=
  .next (s.arrive (.takeAnomalies count true) tag)

/-- TAKE_ANOMALIES_PEEK (R153). -/
def execTakeAnomaliesPeek (tag : Byte) (count : Nat) (s : State) : Host.Outcome State Fault Refusal :=
  .next (s.arrive (.takeAnomalies count false) tag)

/-- READ_HISTORY (R151). -/
def execReadHistory (tag : Byte) (fromSeq count : Nat) (s : State) : Host.Outcome State Fault Refusal :=
  .next (s.arrive (.readHistory fromSeq count) tag)

/-- COUNTERS_PEEK (R181). -/
def execCountersPeek (tag : Byte) (group index : Nat) (s : State) : Host.Outcome State Fault Refusal :=
  .next (s.arrive (.ofCounters group index false) tag)

/-- COUNTERS_TAKE (R181). -/
def execCountersTake (tag : Byte) (group index : Nat) (s : State) : Host.Outcome State Fault Refusal :=
  .next (s.arrive (.ofCounters group index true) tag)

/-- WAIT (R184). -/
def execWait (tag : Byte) (condition argument timeout : Nat) (s : State) : Host.Outcome State Fault Refusal :=
  .next (s.arrive (.ofWait condition argument timeout) tag)

/-- RESTART (R186). -/
def execRestart (tag : Byte) (force : Nat) (s : State) : Host.Outcome State Fault Refusal :=
  .next (s.arrive (.ofRestart force) tag)

end Sys2Proof.Machine
end

