-- ==== Sys2Proof/Machine/Recovery.lean ====
section
/-! DEFINITION. Machine/Recovery.lean: recovery at start-up: the mark scan, the walk of the log, the re-check, the blank check,
the pointers, the INTERRUPTED close mark and the start-up state, and a power-on reset in its midst (R6, R21 to R25, R122,
R127). -/

namespace Sys2Proof.Machine

/-! ## Programs of recovery -/

/-- Recovery on its way: the part, how many programs recovery has issued, and whether a reset has stopped it. -/
structure Run where
  st : State
  issued : Nat
  stopped : Bool
  deriving DecidableEq, Repr

/-- Recovery issues a program: in FAULT none is issued (R24), nor after the reset that stops recovery; the one that the flash
fails is a flash fault of recovery (R85, R145), and the one that the reset stops leaves its bytes as R6 says; any other takes
effect, and a page program is counted (R87). The answer says whether the program completed. -/
def Run.program (r : Run) (w : Option (Nat × RecoveryCut)) (op : FlashOp) : Run × Bool :=
  let whole : Run × Bool :=
    let s := r.st.programPage op.page op.data
    let pages := if op.kind = .pageProgram then satInc max32 s.commit.pages else s.commit.pages
    (⟨{ s with commit := { s.commit with pages := pages } }, r.issued + 1, false⟩, true)
  if r.stopped || r.st.port.fault then (r, false)
  else match w with
    | some (n, .fault byLimit) =>
      if n = r.issued then (⟨r.st.flashFault ⟨op, .recovery, op.kind.limit⟩ byLimit, r.issued + 1, false⟩, false) else whole
    | some (n, .reset _ _) => if n = r.issued then (⟨r.st.interruptOp op, r.issued + 1, true⟩, false) else whole
    | none => whole

/-- A record's state byte is programmed TORN, and one torn record is counted, also when the program fails (R22 to R24). -/
def Run.tear (r : Run) (w : Option (Nat × RecoveryCut)) (page : Nat) : Run :=
  let r := (r.program w ⟨.stateByte, page, [0x1F]⟩).1
  { r with st := { r.st with store := { r.st.store with tornRecords := satInc max16 r.st.store.tornRecords } } }

/-- `n` pages are counted lost (R22, R23). -/
def State.losePages (s : State) (n : Nat) : State :=
  { s with store := { s.store with lostPages := min max16 (s.store.lostPages + n) } }

/-! ## The mark scan (R21) -/

/-- Whether a page reads wholly 0xFF. -/
def State.pageBlank (s : State) (p : Nat) : Bool := Memory.isClear s.flash (p * 256) 256

/-- The sequence of the record that begins at a sector's first-record page, when a header stands there (R24). -/
def State.firstSeqAt (s : State) (sector : Nat) (m : Mark) : Option Nat :=
  if m.firstRecord = 0 then none
  else
    let page := s.page (sector * 256 + m.firstRecord)
    if page.headD 0xFF = 0xFF then none else (Header.parse page).map Header.seq

/-- R21: what page 0 of a sector makes of its directory entry. -/
def State.classify (s : State) (sector : Nat) : DirEntry :=
  if s.pageBlank (sector * 256) then .unknown
  else match Mark.parse (s.page (sector * 256)) with
    | some m => .inUse m (s.firstSeqAt sector m)
    | none => .damaged

/-- R21: the directory as the mark scan sets it. -/
def State.markScan (s : State) : State :=
  { s with directory :=
      ⟨(List.range 512).map fun sector => if sector = 0 then .unknown else s.classify sector, by
        rw [List.length_map, List.length_range]⟩ }

/-! ## The walk (R22) -/

/-- A record that the walk accepted, its state as recovery leaves it. -/
structure Accepted where
  page : Nat
  header : Header
  state : RecState
  deriving DecidableEq, Repr

/-- What the walk leaves: the run, the records accepted (newest first) and the tail. -/
structure Walked where
  run : Run
  newestFirst : List Accepted
  tail : Nat
  deriving DecidableEq, Repr

/-- Page 0 of the sector that follows the newest in-use sector; of sector 1 when none is in use. -/
def State.afterNewest (s : State) : Nat :=
  match s.inUse.getLast? with
  | some x => nextSector x.sector * 256
  | none => 256

/-- The walk's next position after a page whose sector's remaining pages are lost, or the tail where the log ends. -/
def Run.walkLost (r : Run) (p : Nat) : Run × Option Nat :=
  let s := r.st.losePages (256 - p % 256)
  ({ r with st := s }, s.skipSector p)

/-- R22: the walk from page `p`, with `prev` the last sequence accepted. -/
def walk (w : Option (Nat × RecoveryCut)) : Nat → Option Nat → Nat → Run → List Accepted → Walked
  | 0, _, p, r, acc => ⟨r, acc, p⟩
  | fuel + 1, prev, p, r, acc =>
    let lost (_ : Unit) : Walked :=
      match r.walkLost p with
      | (r', some q) => walk w fuel prev q r' acc
      | (r', none) => ⟨r', acc, r'.st.afterNewest⟩
    match headerAt prev (r.st.page p) with
    | .erased true => ⟨r, acc, p⟩
    | .erased false => lost ()
    | .bad => lost ()
    | .record h =>
      let read := RecState.read h.state
      let torn := decide (read = .begun)
      let r' := if torn then r.tear w p else r
      let a : Accepted := ⟨p, h, if torn then .torn else read⟩
      match stepPages (framePages h.payloadLen) p (r'.st.inUseAfter (p / 256)) with
      | .inl (q, _) => walk w fuel (some h.seq) q r' (a :: acc)
      | .inr q => ⟨r', a :: acc, q⟩

/-- R21, R22: the walk from the first record of the log, with its tail. -/
def Run.walkLog (r : Run) (w : Option (Nat × RecoveryCut)) : Walked :=
  match firstRecordPage r.st.inUse with
  | some p => walk w devicePages none p r []
  | none => ⟨r, [], r.st.afterNewest⟩

/-! ## The re-check (R23) -/

/-- The bytes of `n` frame pages from page `p` on, mark pages skipped. -/
def State.frameBytes (s : State) : Nat → Nat → List Byte
  | 0, _ => []
  | n + 1, p => s.page p ++ s.frameBytes n (nextFramePage p)

/-- The whole frame of a record: 48 + payload length bytes. -/
def State.wholeFrame (s : State) (page payloadLen : Nat) : List Byte :=
  (s.frameBytes (framePages payloadLen) page).take (48 + payloadLen)

/-- R23: the payload check recomputed from the previous-check field agrees with the trailer, and so does the length. -/
def State.recordSound (s : State) (page : Nat) (h : Header) : Bool :=
  let frame := s.wholeFrame page h.payloadLen
  decide (payloadCheck h.prevCheck ((frame.drop 40).take h.payloadLen) = fieldOf frame (40 + h.payloadLen) 4)
    && decide (fieldOf frame (44 + h.payloadLen) 4 = h.payloadLen)

/-- R23: the newest epoch: of the last record accepted, else of the newest mark, else 0. -/
def newestEpoch (s : State) (newestFirst : List Accepted) : Nat :=
  match newestFirst with
  | a :: _ => a.header.epoch
  | [] => match s.inUse.getLast? with
    | some x => x.mark.epoch
    | none => 0

/-- R23: every VALID record of the newest epoch is re-read, in log order; one whose check fails is turned TORN. -/
def recheck (w : Option (Nat × RecoveryCut)) (epoch : Nat) : List Accepted → Run → List Accepted × Run
  | [], r => ([], r)
  | a :: rest, r =>
    if a.state = .valid ∧ a.header.epoch = epoch ∧ r.st.recordSound a.page a.header = false then
      let out := recheck w epoch rest (r.tear w a.page)
      ({ a with state := .torn } :: out.1, out.2)
    else
      let out := recheck w epoch rest r
      (a :: out.1, out.2)

/-! ## The blank check (R23) -/

/-- Whether a sector reads wholly blank. -/
def State.sectorBlank (s : State) (sector : Nat) : Bool := Memory.isClear s.flash (sector * 65536) 65536

/-- The blank check over the sectors from `sector` on: each wholly blank one joins the run; the first that is in use, or not
wholly blank, ends it, the latter as damaged. -/
def blankFollowing : Nat → Nat → Nat → State → State × Nat
  | 0, _, run, s => (s, run)
  | fuel + 1, sector, run, s =>
    match s.dir sector with
    | .inUse _ _ => (s, run)
    | _ =>
      if s.sectorBlank sector then blankFollowing fuel (nextSector sector) (run + 256) (s.setDir sector .blank)
      else (s.setDir sector .damaged, run)

/-- Whether the pages after the tail within its own sector all read blank. -/
def State.restBlank (s : State) (tail : Nat) : Bool := Memory.isClear s.flash ((tail + 1) * 256) ((255 - tail % 256) * 256)

/-- A sector that is not in use becomes damaged. -/
def State.damage (s : State) (sector : Nat) : State :=
  match s.dir sector with
  | .inUse _ _ => s
  | _ => s.setDir sector .damaged

/-- R23: the blank check from the tail: the tail and the erased run. A page after the tail in the tail's own sector that is
not blank moves the tail to the next sector and the pages skipped are lost. -/
def blankCheck : Nat → Nat → State → State
  | 0, tail, s => { s with store := { s.store with tail := tail, erasedRun := 0 } }
  | fuel + 1, tail, s =>
    let sector := tail / 256
    let stop (s : State) (run : Nat) : State := { s with store := { s.store with tail := tail, erasedRun := run } }
    match decide (tail % 256 = 0), s.dir sector with
    | true, .inUse _ _ => stop s 0
    | _, _ =>
      if s.restBlank tail then
        if s.pageBlank tail then
          let t := if tail % 256 = 0 then s.setDir sector .blank else s
          let r := blankFollowing 510 (nextSector sector) (256 - tail % 256) t
          stop r.1 r.2
        else stop (s.damage sector) 0
      else blankCheck fuel (nextSector sector * 256) ((s.damage sector).losePages (256 - tail % 256))

/-- R23: unknown sectors that the blank check has not reached become damaged. -/
def State.damageUnknown (s : State) : State :=
  { s with directory := s.directory.map fun (e : DirEntry) => if e = .unknown then .damaged else e }

/-! ## The pointers (R24) -/

/-- The trailer's payload check of a record in the flash. -/
def State.trailerCheck (s : State) (page payloadLen : Nat) : Nat :=
  fieldOf (s.wholeFrame page payloadLen) (40 + payloadLen) 4

/-- The last check: the trailer check of the last VALID or RELEASED record, or 0x00000001. -/
def lastCheckOf (s : State) (inOrder : List Accepted) : Nat :=
  match (inOrder.filter fun a => a.state.kept).getLast? with
  | some a => s.trailerCheck a.page a.header.payloadLen
  | none => 1

/-- The oldest record: the first VALID or TORN one. -/
def oldestOf (inOrder : List Accepted) : Option (Nat × Nat) :=
  (inOrder.find? fun a => a.state.unreleased).map fun a => (a.header.seq, a.page)

/-- The released prefix end: the last RELEASED record before the oldest. -/
def releasedEndOf (inOrder : List Accepted) : Option Nat :=
  (((inOrder.takeWhile fun a => !a.state.unreleased).filter
    fun a => decide (a.state = .released)).getLast?).map fun a => a.header.seq

/-- R24: the store pointers and the epoch number from the walk and the re-check. -/
def State.setPointers (s : State) (inOrder : List Accepted) (epoch : Nat) : State :=
  let t : Store := { s.store with
    oldest := oldestOf inOrder
    releasedEnd := releasedEndOf inOrder
    lastSeq := inOrder.foldl (fun m a => max m a.header.seq) 0
    lastCheck := lastCheckOf s inOrder
    lastEpoch := epoch
    lastSectorSeq := s.inUse.foldl (fun m x => max m x.mark.seq) 0
    exhausted := false
    records := inOrder.map fun a => ⟨a.header.seq, a.page, a.header.payloadLen⟩ }
  ({ s with store := t, epoch := { s.epoch with number := epoch } }).evalExhausted.evalLow

/-! ## The INTERRUPTED close mark (R25, R122) -/

/-- The OPEN_MARK among the accepted records of an epoch. -/
def openMarkOf (inOrder : List Accepted) (epoch : Nat) : Option Accepted :=
  inOrder.find? fun a => decide (a.header.epoch = epoch) && decide (a.header.kind = RecKind.openMark.code)

/-- R25: the newest epoch has an OPEN_MARK and no VALID or RELEASED CLOSE_MARK after it. -/
def interrupted (inOrder : List Accepted) (epoch : Nat) : Option Accepted :=
  match openMarkOf inOrder epoch with
  | none => none
  | some o =>
    if inOrder.any (fun a => decide (o.header.seq < a.header.seq) && decide (a.header.epoch = epoch)
        && decide (a.header.kind = RecKind.closeMark.code) && a.state.kept) then none
    else some o

/-- How many accepted records of an epoch are of a kind and meet a test. -/
def countOf (inOrder : List Accepted) (epoch : Nat) (kind : RecKind) (test : RecState → Bool) : Nat :=
  (inOrder.filter fun a => decide (a.header.epoch = epoch) && decide (a.header.kind = kind.code) && test a.state).length

/-- The open cause with its line or domain, and the open tick: from the OPEN_MARK's payload when it is VALID or RELEASED,
else none and the header's first timestamp (R122). -/
def openFields (s : State) (o : Accepted) : List Byte :=
  if o.state.kept then ((s.wholeFrame o.page o.header.payloadLen).drop 42).take 8
  else le 1 0 ++ le 1 0 ++ le 6 o.header.firstTick

/-- R122: the 30 payload bytes of recovery's CLOSE_MARK. -/
def interruptedPayload (s : State) (inOrder : List Accepted) (epoch : Nat) (o : Accepted) : List Byte :=
  le 2 epoch ++ openFields s o ++ le 1 FlushCause.interrupted.code ++ le 1 0 ++ le 6 0 ++ le 1 s.monitor.power.code
    ++ le 1 (if countOf inOrder epoch .history RecState.kept = 0 then 0 else 4)
    ++ le 2 (min max16 (countOf inOrder epoch .dump RecState.kept))
    ++ le 2 (min max16 (countOf inOrder epoch .dump fun x => decide (x = .torn)))
    ++ le 2 0 ++ le 2 0 ++ le 2 0

/-- The state after a page of recovery's own record, which is not of the writer: its budget and its counters are as before
(R87, R99), the program itself having been counted. -/
def State.uncounted (t s : State) : State := { t with budget := s.budget, writer := s.writer, commit := s.commit }

/-- R9: one operation after another of recovery's own record, until its state byte or a program that does not complete. -/
def writeMark (w : Option (Nat × RecoveryCut)) : Nat → InFlight → Run → Run
  | 0, _, r => r
  | fuel + 1, f, r =>
    match r.program w (r.st.writerOp f) with
    | (r', false) => r'
    | (r', true) =>
      let s := r'.st
      if f.remaining = 0 then { r' with st := s.recordPointers f }
      else if s.store.tail % 256 = 0 then writeMark w fuel f { r' with st := (s.markDone f).uncounted s }
      else
        let t := s.frameDone f
        writeMark w fuel (t.writer.inFlight.getD f) { r' with st := t.uncounted s }

/-- The record in flight that recovery's CLOSE_MARK becomes, seeded with the last check of R24 (R25). -/
def State.markInFlight (s : State) (payload : List Byte) : InFlight :=
  let info := { RecInfo.own .closeMark payload.length with firstTick := s.tick, doneTick := s.tick }
  let ab := sumSeed s.store.lastCheck
  ⟨info, [], 0, payload, pageCount s.store.tail payload.length, 0, none, 0, s.store.lastCheck, ab.1, ab.2, s.tick⟩

/-- R25: the CLOSE_MARK with cause INTERRUPTED is programmed when it fits and the port is not in FAULT; when it does not fit,
STORE_FULL is queued. -/
def Run.closeInterrupted (r : Run) (w : Option (Nat × RecoveryCut)) (inOrder : List Accepted) (epoch : Nat) : Run :=
  match interrupted inOrder epoch with
  | none => r
  | some o =>
    let payload := interruptedPayload r.st inOrder epoch o
    let n := pageCount r.st.store.tail payload.length
    if r.st.store.exhausted ∨ r.st.store.erasedRun < n then { r with st := r.st.postPlain .storeFull none n }
    else writeMark w 4 (r.st.markInFlight payload) r

/-! ## The command -/

/-- R127: recovery ends and the controller chooses the start-up state. -/
def State.startUp (s : State) : State :=
  let s := ({ s with recovering := false }).evalLow
  let s := if s.epoch.settings.autoRearm ∧ s.store.low = false ∧ s.writer.state ≠ .fault then s.rearm 3 else s
  s.finish

/-- R21 to R25: the mark scan, the walk, the re-check, the blank check, the pointers and the INTERRUPTED close mark. A power-on
reset that stops a TORN program of the walk or of the re-check comes before R24: nothing of recovery follows, and last sequence
and last check keep the values they had before recovery. The manual does not say what they hold then; no reply shows them.
(DESIGN CHOICE, log 8, log 13; R10 says the same of a record that a reset stops.) -/
def State.recover (s : State) (w : Option (Nat × RecoveryCut)) : Run :=
  let walked := Run.walkLog ⟨s.markScan, 0, false⟩ w
  let epoch := newestEpoch walked.run.st walked.newestFirst
  let checked := recheck w epoch walked.newestFirst.reverse walked.run
  if checked.2.stopped then checked.2
  else
    let t := (blankCheck 511 walked.tail checked.2.st).damageUnknown.setPointers checked.1 epoch
    Run.closeInterrupted { checked.2 with st := t } w checked.1 epoch

/-- RECOVERY: the whole of recovery at start-up (R21 to R25, R127), or a power-on reset in its midst, after which recovery is
due again (R6): last sequence and last check are then as State.recover left them (log 8). With recovery ended it does not run
again before the next reset. -/
def execRecovery (program : Option Nat) (cut : RecoveryCut) (s : State) : Host.Outcome State Fault Refusal :=
  if s.recovering then
    let r := s.recover (program.map fun n => (n, cut))
    match r.stopped, program, cut with
    | true, some _, .reset strapFirst strapSecond => .next (r.st.powerOn strapFirst strapSecond)
    | _, _, _ => .next r.st.startUp
  else .next s

end Sys2Proof.Machine
end

