-- ==== Sys2Proof/Machine/Dispatch.lean ====
section
/-! DEFINITION. Machine/Dispatch.lean: one arm per command, one direct call of its meaning. -/

namespace Sys2Proof.Machine

def exec (i : Instr) (s : State) : Host.Outcome State Fault Refusal :=
  match i with
  | .powerOnReset strapFirst strapSecond => Sys2Proof.Machine.execPowerOnReset strapFirst strapSecond s
  | .recovery program cut => Sys2Proof.Machine.execRecovery program cut s
  | .selectAsserted lane reconfigured => Sys2Proof.Machine.execSelectAsserted lane s reconfigured
  | .selectReleased lane => Sys2Proof.Machine.execSelectReleased lane s
  | .asyncLaneByte lane data parityBit stopBit => Sys2Proof.Machine.execAsyncLaneByte lane data parityBit stopBit s
  | .parserTake => Sys2Proof.Machine.execParserTake s
  | .sweepTimerExpiry => Sys2Proof.Machine.execSweepTimerExpiry s
  | .triggerInputChange line level => Sys2Proof.Machine.execTriggerInputChange line level s
  | .filterRunComplete line => Sys2Proof.Machine.execFilterRunComplete line s
  | .tickWrap => Sys2Proof.Machine.execTickWrap s
  | .scanTimerExpiry => Sys2Proof.Machine.execScanTimerExpiry s
  | .scanComplete a0 a1 => Sys2Proof.Machine.execScanComplete a0 a1 s
  | .windowExpiry => Sys2Proof.Machine.execWindowExpiry s
  | .quietExpiry => Sys2Proof.Machine.execQuietExpiry s
  | .graceExpiry => Sys2Proof.Machine.execGraceExpiry s
  | .pageProgramComplete ok => Sys2Proof.Machine.execPageProgramComplete ok s
  | .stateByteProgramComplete ok => Sys2Proof.Machine.execStateByteProgramComplete ok s
  | .pageReadComplete => Sys2Proof.Machine.execPageReadComplete s
  | .sectorEraseComplete ok => Sys2Proof.Machine.execSectorEraseComplete ok s
  | .flashTimeLimitExpiry => Sys2Proof.Machine.execFlashTimeLimitExpiry s
  | .serviceLineByte data stopBit => Sys2Proof.Machine.execServiceLineByte data stopBit s
  | .replySent strapFirst strapSecond => Sys2Proof.Machine.execReplySent s strapFirst strapSecond
  | .unknownKindRequest tag kind => Sys2Proof.Machine.execUnknownKindRequest tag kind s
  | .identify tag => Sys2Proof.Machine.execIdentify tag s
  | .status tag => Sys2Proof.Machine.execStatus tag s
  | .configureLane tag lane mode divisor parityEven report => Sys2Proof.Machine.execConfigureLane tag lane mode divisor parityEven report s
  | .configureTrigger tag line polarity filterCode prescale mode => Sys2Proof.Machine.execConfigureTrigger tag line polarity filterCode prescale mode s
  | .configureDomain tag domain valid opensEpoch base spanExponent => Sys2Proof.Machine.execConfigureDomain tag domain valid opensEpoch base spanExponent s
  | .configurePrimary tag enabled opensEpoch domain spanExponent => Sys2Proof.Machine.execConfigurePrimary tag enabled opensEpoch domain spanExponent s
  | .configureStreams tag first count enabled blockLimit => Sys2Proof.Machine.execConfigureStreams tag first count enabled blockLimit s
  | .configureAging tag first last interval limit => Sys2Proof.Machine.execConfigureAging tag first last interval limit s
  | .configurePool tag reserve => Sys2Proof.Machine.execConfigurePool tag reserve s
  | .configureBudget tag scale capacitance floor reserve pageCost ceiling => Sys2Proof.Machine.execConfigureBudget tag scale capacitance floor reserve pageCost ceiling s
  | .configureAdc tag interval failThreshold restoreThreshold count => Sys2Proof.Machine.execConfigureAdc tag interval failThreshold restoreThreshold count s
  | .configureEpoch tag window quiet grace holdupGrace powerOpens rearmPolicy closeReserve => Sys2Proof.Machine.execConfigureEpoch tag window quiet grace holdupGrace powerOpens rearmPolicy closeReserve s
  | .readConfigLane tag index => Sys2Proof.Machine.execReadConfigLane tag index s
  | .readConfigTrigger tag index => Sys2Proof.Machine.execReadConfigTrigger tag index s
  | .readConfigDomain tag domain => Sys2Proof.Machine.execReadConfigDomain tag domain s
  | .readConfigPrimary tag => Sys2Proof.Machine.execReadConfigPrimary tag s
  | .readConfigStreams tag first count => Sys2Proof.Machine.execReadConfigStreams tag first count s
  | .readConfigAging tag => Sys2Proof.Machine.execReadConfigAging tag s
  | .readConfigPool tag => Sys2Proof.Machine.execReadConfigPool tag s
  | .readConfigBudget tag => Sys2Proof.Machine.execReadConfigBudget tag s
  | .readConfigAdc tag => Sys2Proof.Machine.execReadConfigAdc tag s
  | .readConfigEpoch tag => Sys2Proof.Machine.execReadConfigEpoch tag s
  | .saveConfig tag => Sys2Proof.Machine.execSaveConfig tag s
  | .setTimeSet tag seconds microseconds => Sys2Proof.Machine.execSetTimeSet tag seconds microseconds s
  | .setTimeClear tag => Sys2Proof.Machine.execSetTimeClear tag s
  | .getTime tag => Sys2Proof.Machine.execGetTime tag s
  | .log tag code data => Sys2Proof.Machine.execLog tag code data s
  | .openEpoch tag => Sys2Proof.Machine.execOpen tag s
  | .flush tag choice => Sys2Proof.Machine.execFlush tag choice s
  | .rearm tag => Sys2Proof.Machine.execRearm tag s
  | .listRecords tag fromSeq count => Sys2Proof.Machine.execListRecords tag fromSeq count s
  | .readRecord tag seq offset length => Sys2Proof.Machine.execReadRecord tag seq offset length s
  | .verify tag seq => Sys2Proof.Machine.execVerify tag seq s
  | .release tag upTo expectedOldest => Sys2Proof.Machine.execRelease tag upTo expectedOldest s
  | .format tag => Sys2Proof.Machine.execFormat tag s
  | .readStreamPeek tag stream => Sys2Proof.Machine.execReadStreamPeek tag stream s
  | .readStreamTake tag stream => Sys2Proof.Machine.execReadStreamTake tag stream s
  | .takeAnomaliesTake tag count => Sys2Proof.Machine.execTakeAnomaliesTake tag count s
  | .takeAnomaliesPeek tag count => Sys2Proof.Machine.execTakeAnomaliesPeek tag count s
  | .readHistory tag fromSeq count => Sys2Proof.Machine.execReadHistory tag fromSeq count s
  | .countersPeek tag group index => Sys2Proof.Machine.execCountersPeek tag group index s
  | .countersTake tag group index => Sys2Proof.Machine.execCountersTake tag group index s
  | .wait tag condition argument timeout => Sys2Proof.Machine.execWait tag condition argument timeout s
  | .waitTimeout => Sys2Proof.Machine.execWaitTimeout s
  | .restart tag force => Sys2Proof.Machine.execRestart tag force s
  | .clockRisingEdge lane bit => Sys2Proof.Machine.execClockRisingEdge lane bit s

end Sys2Proof.Machine
end

