-- ==== Sys2Proof/Machine/Step.lean ====
section
/-! DEFINITION. Machine/Step.lean: one step of the part: the command at the front of the queue, or, with none waiting, one
microsecond of the part's clock. -/

namespace Sys2Proof.Machine

/-- One step: the command at the front is taken and run with the queue's rest; on an empty queue one microsecond passes and
the timers that then expire put their commands in the queue (log 1). -/
def step (s : State) : Host.Outcome State Fault Refusal :=
  match s.pending with
  | c :: rest => exec c { s with pending := rest }
  | [] => .next s.microsecond

/-- The state with the command that a word spells at the front of the queue; as it is when the word spells none. -/
def State.withFetchWord (s : State) (nbits w : Nat) : State :=
  match Sys2Proof.decodeTableWord nbits w with
  | some c => { s with pending := c :: s.pending }
  | none => s

end Sys2Proof.Machine
end

