-- ==== Sys2Proof/Safety.lean ====
section
/-! DEFINITION. Safety.lean: what counts as a safe step and a safe state, in the terms the claims use. -/

namespace Sys2Proof.Machine

/-- A step that is neither a fault nor a refusal. -/
def State.StepsOn (s : State) : Prop := ∃ t, step s = .next t

/-- Both byte memories keep their canonical form. -/
def State.MemoryCanonical (s : State) : Prop :=
  Memory.wf flashBlank s.flash = true ∧ Memory.wf poolBlank s.pool = true

/-- No queue or ring exceeds its capacity: the commit queue (R67), the history ring and the post-trigger list (R146), the
anomaly queue (R152) and the request queue (R174). -/
def State.WithinCapacity (s : State) : Prop :=
  s.queue.length ≤ queueCapacity ∧ s.history.ring.length ≤ ringCapacity ∧ s.history.list.length ≤ listCapacity
    ∧ s.anomalies.entries.length ≤ anomalyCapacity ∧ s.link.queue.length ≤ requestCapacity

/-- The commit queue stands in class order, smallest class number first (R67). -/
def State.QueueInOrder (s : State) : Prop := s.queue.Pairwise fun a b => a.info.cls ≤ b.info.cls

/-- In WATCH the ring is live and the post-trigger list is empty (R146). -/
def State.ListEmptyInWatch (s : State) : Prop :=
  s.epoch.state = .watch → s.history.frozen = false ∧ s.history.list = []

/-! ## The source map's law (R30) -/

/-- The ranges of the valid table entries and of the enabled primary domain are pairwise disjoint and within 0 to 511. -/
structure MapLaw (entry : Nat → DomainEntry) (primary : Primary) : Prop where
  inside : ∀ d, d < 64 → (entry d).valid = true → (entry d).base + 2 ^ (entry d).spanExponent ≤ 512
  primaryInside : primary.enabled = true → 2 ^ primary.spanExponent ≤ 512
  disjoint : ∀ d e, d < 64 → e < 64 → d ≠ e → (entry d).valid = true → (entry e).valid = true →
    (entry d).base + 2 ^ (entry d).spanExponent ≤ (entry e).base ∨
      (entry e).base + 2 ^ (entry e).spanExponent ≤ (entry d).base
  primaryDisjoint : ∀ d, d < 64 → primary.enabled = true → (entry d).valid = true →
    2 ^ primary.spanExponent ≤ (entry d).base

/-- The law of R30 holds for the active and for the prospective configuration, and outside CAPTURE and FLUSH the two are the
same: no pending copy of the source map is held (R35, R36). -/
structure State.MapLawful (s : State) : Prop where
  active : MapLaw (fun d => (s.domainEntry d).active) s.primary.active
  prospective : MapLaw (fun d => (s.domainEntry d).prospective) s.primary.prospective
  noneHeld : s.epoch.state = .watch ∨ s.epoch.state = .closed →
    s.primary.pending = none ∧ ∀ d, d < 64 → (s.domainEntry d).pending = none

/-- Loaded settings obey the law of R30. -/
def Settings.MapLawful (c : Settings) : Prop := MapLaw (fun d => c.domains.getD d ⟨false, false, 0, 0⟩) c.primary

/-! ## The places of the blocks (R52, R61) -/

/-- The blocks in every place of R52: the free list, the streams' chains, the queued records' chains, and what remains of the
record in flight. -/
def State.blockPlaces (s : State) : List Nat :=
  s.freeList ++ s.streams.list.flatMap (fun t => t.record.chain) ++ s.queue.flatMap QEntry.chain
    ++ match s.writer.inFlight with
      | some f => f.chain.drop f.returned
      | none => []

/-- No stream has an open record or the rest of one to discard. -/
def State.StreamsQuiet (s : State) : Prop := ∀ t ∈ s.streams.list, t.state = .idle ∨ t.state = .barred

/-- An operation of the writer belongs to its record in flight: a state byte when every frame page has been programmed, a
page before that. -/
def State.WritersOp (s : State) (op : FlashOp) : Prop :=
  ∃ f, s.writer.inFlight = some f ∧ (op.kind = .stateByte ↔ f.remaining = 0)

/-- The law of the blocks (R52, R61), with what keeps it from step to step. -/
structure State.BlocksLawful (s : State) : Prop where
  /-- R52: every one of the 2048 blocks is in exactly one place. -/
  partitioned : s.blockPlaces.Perm (List.range 2048)
  /-- R52: only an ASSEMBLING stream has a chain. -/
  chains : ∀ t ∈ s.streams.list, t.record.chain ≠ [] → t.state = .assembling
  /-- R61: in WATCH and CLOSED no stream is ASSEMBLING or DISCARDING, the commit queue is empty and nothing is in flight, so
  that every block is on the free list. -/
  quiet : s.epoch.state = .watch ∨ s.epoch.state = .closed →
    s.StreamsQuiet ∧ s.queue = [] ∧ s.writer.inFlight = none ∧ (s.writer.state = .idle ∨ s.writer.state = .fault)
  /-- R59: once the close of all streams has been taken in FLUSH no stream is ASSEMBLING. -/
  closed : s.epoch.state = .flush → s.epoch.streamsClosed = true → s.StreamsQuiet
  /-- R111: the close of all streams has not been taken in CAPTURE. -/
  notYet : s.epoch.state = .capture → s.epoch.streamsClosed = false
  /-- R71: the writer in CAPTURE and FLUSH. -/
  working : s.epoch.state = .capture ∨ s.epoch.state = .flush →
    s.writer.state = .selecting ∧ s.writer.inFlight = none ∨ s.writer.state = .programming ∧ s.writer.inFlight ≠ none ∨
      s.writer.state = .closing
  /-- R79, R80: in CLOSING the streams are closed, the queue is empty, and no DUMP is in flight. -/
  closing : s.writer.state = .closing → s.epoch.state = .flush ∧ s.epoch.streamsClosed = true ∧ s.queue = [] ∧
    ∀ f, s.writer.inFlight = some f → f.chain = []
  /-- R77: the blocks that the record in flight has returned are those whose bytes have been programmed. -/
  returned : ∀ f, s.writer.inFlight = some f → f.returned = if f.done = 0 then 0 else f.blocksDone (f.done - 1)
  /-- R83: the writer has one operation at most, of its record in flight. -/
  waitingOp : ∀ op, s.port.waitWriter = some op → s.WritersOp op ∧ ∀ x, s.port.inFlight = some x → x.claimant ≠ .writer
  inFlightOp : ∀ x, s.port.inFlight = some x → x.claimant = .writer → s.WritersOp x.op
  /-- R127: the epoch is CLOSED until recovery ends. -/
  recovering : s.recovering = true → s.epoch.state = .closed

/-! ## After a reset (R127, R186) -/

/-- What either kind of reset makes of the part, but for the timebase, the anchor, the kind of the reset and the line: the
settings come from the image of sector 0 as the flash then stands, or are the defaults (R19); every volatile piece takes its
reset value; the levels of the pins are kept; last sequence and last check are kept until recovery (R10). The values of the
store pointers and of the epoch number until recovery are log 8, the kept bytes of the block memory log 6. -/
structure State.AfterReset (s t : State) (strapFirst strapSecond : Bool) : Prop where
  commands : t.pending = s.pending ∧ t.examDue = false
  straps : t.strapFirst = strapFirst ∧ t.strapSecond = strapSecond
  recovery : t.recovering = true
  image : t.imageSeq = (loadImage t.flash).imageSeq
  lanes : ∀ l, t.lane l = ⟨(loadImage t.flash).settings.lanes.get l,
    match (loadImage t.flash).settings.lanes.get l |>.mode with
    | .off => .off
    | .clocked => if (s.lane l).select then .skipping else .waiting
    | .async => .skipping,
    false, [], .empty, .empty, (s.lane l).select, ⟨0, 0, 0, 0, 0, 0, 0, 0, 0, 0⟩⟩
  held : t.heldOrder = []
  domains : ∀ d, d < 64 → t.domains.list[d]? = some ⟨(loadImage t.flash).settings.domains.getD d ⟨false, false, 0, 0⟩, none⟩
  primary : t.primary = ⟨(loadImage t.flash).settings.primary, none⟩
  streams : ∀ i, i < 512 → t.streams.list[i]? = some
    (let set := (loadImage t.flash).settings.streams.getD i ⟨true, 256⟩
     ⟨⟨set, none⟩, if set.enabled then .idle else .barred, ⟨0, 1, [], 0, 0, false, 0, 0, 0, 0, ⟨0, 0⟩⟩, 0⟩)
  sweep : t.aging = ⟨(loadImage t.flash).settings.aging, none⟩ ∧ t.cursor = (loadImage t.flash).settings.aging.first ∧
    t.sweepTimer = if duration (loadImage t.flash).settings.aging.interval = 0 then none
      else some (duration (loadImage t.flash).settings.aging.interval * 100)
  blocks : t.pool = s.pool ∧ t.freeList = List.range 2048 ∧ t.poolReserve = ⟨(loadImage t.flash).settings.pool, none⟩
  reassembly : t.reassembly = ⟨0, 0, 0, 0, 0, 0, 0, 0, 0⟩
  commitPath : t.queue = [] ∧ t.writer = ⟨.idle, none, [], false, none⟩ ∧ t.commit = ⟨0, 0, 0, 0, 0, 0, 0, 0, 0, 0, 0⟩
  port : t.port = ⟨none, none, none, none, false, true, none⟩
  store : t.store = ⟨256, 0, none, none, s.store.lastSeq, s.store.lastCheck, 0, 0, true, false, 0, 0, []⟩
  directory : ∀ n, n < 512 → t.dir n = .unknown
  monitor : t.monitor.settings = (loadImage t.flash).settings.adc ∧ t.monitor.scanning = true ∧ t.monitor.scanTimer = none ∧
    t.monitor.codes.list = [0, 0, 0, 0] ∧ t.monitor.lastA1 = 0 ∧ t.monitor.run = 0 ∧ t.monitor.scansSeen = 0 ∧
    t.monitor.power = .main
  budget : t.budget = ⟨(loadImage t.flash).settings.budget, 0, 0, false⟩ ∧ t.powerCounters = ⟨0, 0, 0, 0, 0⟩
  epoch : t.epoch = ⟨(loadImage t.flash).settings.epoch, .closed, 0, .none, .none, 0, 0, none, none, none, false, false,
    ⟨0, 0, 0, false⟩⟩
  lines : ∀ l, t.line l = ⟨(loadImage t.flash).settings.triggers.get l, (s.line l).input, (s.line l).input, none, 0, 0, 0⟩
  history : t.history = ⟨[], [], false, 1, 0, 0, 0, 0, 0⟩
  anomalies : t.anomalies = match (loadImage t.flash).lost with
    | none => ⟨[], 0, 0⟩
    | some detail => ⟨[⟨.configLost, none, none, none, t.tick, detail⟩], 0, 1⟩
  link : t.link = ⟨if strapFirst then (if strapSecond then 3000000 else 460800)
      else if strapSecond then 921600 else 115200,
    .hunting, [], false, [], .free, none, [], t.link.lineOut, ⟨0, 0, 0, 0, 0, 0, 0, 0, 0, 0, 0⟩⟩
  /-- R6: a program or erase in flight is stopped where it had come; with none in flight the flash is kept. -/
  flash : ∀ a, t.flashByte a = s.flashByte a ∨ ∃ x, s.port.inFlight = some x ∧
    (x.op.kind = .erase ∧ a / 65536 = x.op.page / 256 ∧ t.flashByte a = 0xFF ∨
      x.op.kind ≠ .erase ∧ x.op.kind ≠ .pageRead ∧ x.op.page * 256 ≤ a ∧ a < x.op.page * 256 + x.op.data.length ∧
        t.flashByte a = x.op.data.getD (a - x.op.page * 256) 0)

/-- The operation in flight names a page of the device. -/
def State.PortInDevice (s : State) : Prop := ∀ x, s.port.inFlight = some x → x.op.page < devicePages

/-! ## Requests that are served at once -/

/-- Nothing waits in the request queue and the server is free, so that a request received now is served at once (R175). -/
def State.LinkFree (s : State) : Prop := s.link.queue = [] ∧ s.link.server = .free

/-- `LinkFree`, and recovery has ended: no common test of R178 refuses a request that HOLDUP admits. -/
def State.Serves (s : State) : Prop := s.LinkFree ∧ s.recovering = false

/-- `Serves`, in power state MAIN. -/
def State.ServesAll (s : State) : Prop := s.Serves ∧ s.monitor.power = .main

/-- The part with a request at the head of an otherwise empty request queue, counted as queued (R174, R187). -/
def State.received (s : State) (req : Request) (tag : Byte) : State :=
  { s with link := { s.link with
    queue := [(⟨req, tag, s.tick, s.wrap⟩ : Queued)]
    counters := { s.link.counters with queued := satInc max32 s.link.counters.queued } } }

/-- The part with a reply of the server handed to the transmitter, the request counted as served (R175, R176). -/
def State.replied (s : State) (kind : Nat) (tag : Byte) (status : Status) (body : List Byte) (reset : Bool) : State :=
  { s with link := { s.link with
    server := .replying
    tx := s.link.tx ++ [(⟨kind, tag, status, body, true, reset⟩ : Reply)]
    counters := { s.link.counters with served := satInc max32 s.link.counters.served } } }

/-- A request of kind `kind`, received and answered in one go. -/
def State.answered (s : State) (req : Request) (kind : Nat) (tag : Byte) (status : Status) (body : List Byte) : State :=
  (s.received req tag).replied kind tag status body false

/-! ## A claim of the service link -/

/-- `t` is `s` with a request received and in service, its flash operation claimed: in flight when the port was free and no
writer's claim waited, and waiting when an operation was in flight. Nothing outside the link and the port has changed. -/
def State.Claims (s t : State) (req : Request) (tag : Byte) (job : Job) (op : FlashOp) : Prop :=
  t.link = { (s.received req tag).link with server := .working job false } ∧
  { t with link := s.link, port := s.port } = s ∧
  (s.port.inFlight = none → s.port.waitWriter = none → t.port.inFlight = some ⟨op, .service, op.kind.limit⟩) ∧
  (∀ x, s.port.inFlight = some x → t.port.inFlight = some x ∧ t.port.waitService = some op)

/-! ## Reply bodies -/

/-- The body has `size` bytes and lays out these fields, each an offset, a width in bytes and a value (Formats). -/
def Lays (body : List Byte) (size : Nat) (fields : List (Nat × Nat × Nat)) : Prop :=
  body.length = size ∧ ∀ f ∈ fields, fieldOf body f.1 f.2.1 = f.2.2 % 256 ^ f.2.1

/-! ## Lane fragments as bytes (Formats, Lane fragment) -/

/-- A fragment as its source sends it: six header bytes, the payload and the CRC-16. -/
def Fragment.bytes (f : Fragment) : List Byte :=
  let front := le 1 f.kind.code ++ le 1 (f.cls + 128 * (f.payload.length / 256)) ++ le 2 f.source.word ++ le 1 f.number
    ++ le 1 (f.payload.length % 256) ++ f.payload
  front ++ crcBytes front

/-- The fields of a fragment that its layout can hold, with a payload length in its kind's range (R165, check 2). -/
def Fragment.Fits (f : Fragment) : Prop :=
  f.cls < 4 ∧ f.source.domain < 64 ∧ f.source.unit < 1024 ∧ f.number < 256 ∧
    (if f.kind = .event then 2 ≤ f.payload.length ∧ f.payload.length ≤ 26 else f.payload.length ≤ 256)

/-! ## Settings that their image form can hold (Formats, Configuration image) -/

/-- Every setting lies in the width of its field of the image. -/
def Settings.Fits (c : Settings) : Prop :=
  (∀ l ∈ c.lanes.list, l.divisor < 65536) ∧
  (∀ l ∈ c.triggers.list, l.filterCode < 256 ∧ l.prescale < 256) ∧
  (∀ e ∈ c.domains.list, e.base < 65536 ∧ e.spanExponent < 256) ∧
  (c.primary.domain < 256 ∧ c.primary.spanExponent < 256) ∧
  (∀ t ∈ c.streams.list, 1 ≤ t.blockLimit ∧ t.blockLimit ≤ 256) ∧
  (c.aging.first < 65536 ∧ c.aging.last < 65536 ∧ c.aging.interval < 256 ∧ c.aging.limit < 256) ∧
  c.pool < 65536 ∧
  (c.budget.scale < 65536 ∧ c.budget.capacitance < 65536 ∧ c.budget.floor < 65536 ∧ c.budget.reserve < 4294967296 ∧
    c.budget.pageCost < 65536 ∧ c.budget.ceiling < 256) ∧
  (c.adc.interval < 256 ∧ c.adc.failThreshold < 65536 ∧ c.adc.restoreThreshold < 65536 ∧ c.adc.count < 256) ∧
  (c.epoch.window < 65536 ∧ c.epoch.quiet < 256 ∧ c.epoch.grace < 256 ∧ c.epoch.holdupGrace < 256 ∧
    c.epoch.closeReserve < 65536)

/-! ## Record payloads in the block memory (R53, R77) -/

/-- Payload byte `k` of a record whose chain this is. -/
def State.chainByte (s : State) (chain : List Nat) (k : Nat) : Byte := s.poolByte (chain.getD (k / 256) 0 * 256 + k % 256)

/-! ## Record frames in the flash (R3, R4, R22) -/

/-- The page `n` frame pages on from page `p`: mark pages are skipped, and sector 1 follows sector 511 (R1, R4). -/
def framePageOn : Nat → Nat → Nat
  | 0, p => p
  | n + 1, p => framePageOn n (if p = 131071 then 257 else if p % 256 = 255 then p + 2 else p + 1)

/-- Byte `i` of the record frame that begins at page `p`. -/
def State.frameByte (s : State) (p i : Nat) : Byte := s.flashByte (framePageOn (i / 256) p * 256 + i % 256)

/-- The little-endian number in the bytes of a frame from byte `i` on, of a width in bytes. -/
def State.frameNat (s : State) (p : Nat) : Nat → Nat → Nat
  | _, 0 => 0
  | i, n + 1 => (s.frameByte p i).toNat + 256 * s.frameNat p (i + 1) n

/-- At page `r` a record of the log begins: its state byte is not ERASED, its header check passes, and its sequence is above
the last one taken, if any (R22, R182). -/
def State.RecordAt (s : State) (prev : Option Nat) (r : Nat) (h : Header) : Prop :=
  (s.page r).headD 0xFF ≠ 0xFF ∧ Header.parse (s.page r) = some h ∧ ∀ x, prev = some x → x < h.seq

/-- The pages that `k` frame pages take from page `p` on, counted one by one, a mark page before each page 0 included (R3, R4). -/
def pagesTaken : Nat → Nat → Nat
  | 0, _ => 0
  | k + 1, p => if p % 256 = 0 then 2 + pagesTaken k (p + 2) else 1 + pagesTaken k (nextPage p)

end Sys2Proof.Machine

namespace Sys2Proof

open Sys2Proof.Machine

/-- The request that a command brings, with its tag; none for a command that is no request. -/
def Instr.request : Instr → Option (Request × Byte)
  | .unknownKindRequest tag kind => some (if kind = 0 ∨ largestKind < kind then .unknown kind else .malformed kind, tag)
  | .identify tag => some (.identify, tag)
  | .status tag => some (.status, tag)
  | .configureLane tag lane mode divisor parityEven report =>
    some (.configure (.lane lane mode divisor parityEven report), tag)
  | .configureTrigger tag line polarity filterCode prescale mode =>
    some (.configure (.trigger line polarity filterCode prescale mode), tag)
  | .configureDomain tag domain valid opensEpoch base spanExponent =>
    some (.configure (.domain domain valid opensEpoch base spanExponent), tag)
  | .configurePrimary tag enabled opensEpoch domain spanExponent =>
    some (.configure (.primary enabled opensEpoch domain spanExponent), tag)
  | .configureStreams tag first count enabled blockLimit =>
    some (.configure (.streams first count enabled blockLimit), tag)
  | .configureAging tag first last interval limit => some (.configure (.aging first last interval limit), tag)
  | .configurePool tag reserve => some (.configure (.pool reserve), tag)
  | .configureBudget tag scale capacitance floor reserve pageCost ceiling =>
    some (.configure (.budget scale capacitance floor reserve pageCost ceiling), tag)
  | .configureAdc tag interval failThreshold restoreThreshold count =>
    some (.configure (.adc interval failThreshold restoreThreshold count), tag)
  | .configureEpoch tag window quiet grace holdupGrace powerOpens rearmPolicy closeReserve =>
    some (.configure (.epoch window quiet grace holdupGrace powerOpens rearmPolicy closeReserve), tag)
  | .readConfigLane tag index => some (.readConfig (.lane index), tag)
  | .readConfigTrigger tag index => some (.readConfig (.trigger index), tag)
  | .readConfigDomain tag domain => some (.readConfig (.domain domain), tag)
  | .readConfigPrimary tag => some (.readConfig .primary, tag)
  | .readConfigStreams tag first count => some (.readConfig (.streams first count), tag)
  | .readConfigAging tag => some (.readConfig .aging, tag)
  | .readConfigPool tag => some (.readConfig .pool, tag)
  | .readConfigBudget tag => some (.readConfig .budget, tag)
  | .readConfigAdc tag => some (.readConfig .adc, tag)
  | .readConfigEpoch tag => some (.readConfig .epoch, tag)
  | .saveConfig tag => some (.saveConfig, tag)
  | .setTimeSet tag seconds microseconds => some (.setTime seconds microseconds, tag)
  | .setTimeClear tag => some (.clearTime, tag)
  | .getTime tag => some (.getTime, tag)
  | .log tag code data => some (.log code data, tag)
  | .openEpoch tag => some (.openEpoch, tag)
  | .flush tag choice => some (.ofFlush choice, tag)
  | .rearm tag => some (.rearm, tag)
  | .listRecords tag fromSeq count => some (.listRecords fromSeq count, tag)
  | .readRecord tag seq offset length => some (.readRecord seq offset length, tag)
  | .verify tag seq => some (.verify seq, tag)
  | .release tag upTo expectedOldest => some (.release upTo expectedOldest, tag)
  | .format tag => some (.format, tag)
  | .readStreamPeek tag stream => some (.readStream stream false, tag)
  | .readStreamTake tag stream => some (.readStream stream true, tag)
  | .takeAnomaliesTake tag count => some (.takeAnomalies count true, tag)
  | .takeAnomaliesPeek tag count => some (.takeAnomalies count false, tag)
  | .readHistory tag fromSeq count => some (.readHistory fromSeq count, tag)
  | .countersPeek tag group index => some (.ofCounters group index false, tag)
  | .countersTake tag group index => some (.ofCounters group index true, tag)
  | .wait tag condition argument timeout => some (.ofWait condition argument timeout, tag)
  | .restart tag force => some (.ofRestart force, tag)
  | _ => none

/-- The flag byte of two yes-or-no settings: bits 0 and 1. -/
def flagByte (bit0 bit1 : Bool) : List Byte := le 1 ((if bit0 then 1 else 0) + if bit1 then 2 else 0)

/-- The kind byte and the body of the request frame that a command stands for (Formats, Request bodies). -/
def Instr.frame : Instr → Option (Nat × List Byte)
  | .unknownKindRequest _ kind => some (kind, [])
  | .identify _ => some (0x01, [])
  | .status _ => some (0x02, [])
  | .configureLane _ lane mode divisor parityEven report =>
    some (0x03, le 1 1 ++ le 2 lane ++ (le 1 mode ++ le 2 divisor ++ flagByte parityEven report))
  | .configureTrigger _ line polarity filterCode prescale mode =>
    some (0x03, le 1 2 ++ le 2 line ++ (le 1 polarity ++ le 1 filterCode ++ le 1 prescale ++ le 1 mode))
  | .configureDomain _ domain valid opensEpoch base spanExponent =>
    some (0x03, le 1 3 ++ le 2 domain ++ (flagByte valid opensEpoch ++ le 2 base ++ le 1 spanExponent))
  | .configurePrimary _ enabled opensEpoch domain spanExponent =>
    some (0x03, le 1 4 ++ le 2 0 ++ (flagByte enabled opensEpoch ++ le 1 domain ++ le 1 spanExponent ++ [0]))
  | .configureStreams _ first count enabled blockLimit =>
    some (0x03, le 1 5 ++ le 2 first ++ (le 2 count ++ le 1 enabled ++ le 1 blockLimit))
  | .configureAging _ first last interval limit =>
    some (0x03, le 1 6 ++ le 2 0 ++ (le 2 first ++ le 2 last ++ le 1 interval ++ le 1 limit))
  | .configurePool _ reserve => some (0x03, le 1 7 ++ le 2 0 ++ le 2 reserve)
  | .configureBudget _ scale capacitance floor reserve pageCost ceiling =>
    some (0x03, le 1 8 ++ le 2 0 ++ (le 2 scale ++ le 2 capacitance ++ le 2 floor ++ le 4 reserve ++ le 2 pageCost
      ++ le 1 ceiling))
  | .configureAdc _ interval failThreshold restoreThreshold count =>
    some (0x03, le 1 9 ++ le 2 0 ++ (le 1 interval ++ le 2 failThreshold ++ le 2 restoreThreshold ++ le 1 count))
  | .configureEpoch _ window quiet grace holdupGrace powerOpens rearmPolicy closeReserve =>
    some (0x03, le 1 10 ++ le 2 0 ++ (le 2 window ++ le 1 quiet ++ le 1 grace ++ le 1 holdupGrace ++ le 1 powerOpens
      ++ le 1 rearmPolicy ++ le 2 closeReserve))
  | .readConfigLane _ index => some (0x04, le 1 1 ++ le 2 index ++ le 2 1)
  | .readConfigTrigger _ index => some (0x04, le 1 2 ++ le 2 index ++ le 2 1)
  | .readConfigDomain _ domain => some (0x04, le 1 3 ++ le 2 domain ++ le 2 1)
  | .readConfigPrimary _ => some (0x04, le 1 4 ++ le 2 0 ++ le 2 1)
  | .readConfigStreams _ first count => some (0x04, le 1 5 ++ le 2 first ++ le 2 count)
  | .readConfigAging _ => some (0x04, le 1 6 ++ le 2 0 ++ le 2 1)
  | .readConfigPool _ => some (0x04, le 1 7 ++ le 2 0 ++ le 2 1)
  | .readConfigBudget _ => some (0x04, le 1 8 ++ le 2 0 ++ le 2 1)
  | .readConfigAdc _ => some (0x04, le 1 9 ++ le 2 0 ++ le 2 1)
  | .readConfigEpoch _ => some (0x04, le 1 10 ++ le 2 0 ++ le 2 1)
  | .saveConfig _ => some (0x05, [])
  | .setTimeSet _ seconds microseconds => some (0x06, le 1 1 ++ le 8 seconds ++ le 4 microseconds)
  | .setTimeClear _ => some (0x06, le 1 2 ++ le 8 0 ++ le 4 0)
  | .getTime _ => some (0x07, [])
  | .log _ code data => some (0x08, le 2 code ++ le 1 data.length ++ data)
  | .openEpoch _ => some (0x09, [])
  | .flush _ choice => some (0x0A, le 1 choice)
  | .rearm _ => some (0x0B, [])
  | .listRecords _ fromSeq count => some (0x0C, le 4 fromSeq ++ le 1 count)
  | .readRecord _ seq offset length => some (0x0D, le 4 seq ++ le 4 offset ++ le 2 length)
  | .verify _ seq => some (0x0E, le 4 seq)
  | .release _ upTo expectedOldest => some (0x0F, le 4 upTo ++ le 4 expectedOldest)
  | .format _ => some (0x10, [])
  | .readStreamPeek _ stream => some (0x11, le 2 stream ++ le 1 1)
  | .readStreamTake _ stream => some (0x11, le 2 stream ++ le 1 2)
  | .takeAnomaliesTake _ count => some (0x12, le 1 count ++ le 1 2)
  | .takeAnomaliesPeek _ count => some (0x12, le 1 count ++ le 1 1)
  | .readHistory _ fromSeq count => some (0x13, le 4 fromSeq ++ le 1 count)
  | .countersPeek _ group index => some (0x14, le 1 group ++ le 1 index ++ le 1 1)
  | .countersTake _ group index => some (0x14, le 1 group ++ le 1 index ++ le 1 2)
  | .wait _ condition argument timeout => some (0x15, le 1 condition ++ le 4 argument ++ le 2 timeout)
  | .restart _ force => some (0x16, le 1 force)
  | _ => none

/-- The commands that can change bytes of the flash: the flash's own reports and limits, recovery, and the resets, which stop
an operation in flight where it had come (R6). -/
def Instr.mayChangeFlash : Instr → Bool
  | .powerOnReset _ _ | .recovery _ _ | .pageProgramComplete _ | .stateByteProgramComplete _ | .sectorEraseComplete _
  | .flashTimeLimitExpiry | .replySent _ _ => true
  | _ => false

end Sys2Proof
end

