-- ==== Sys2Proof/WellFormed.lean ====
section
/-! DEFINITION. WellFormed.lean: which commands can come: a request's body field holds a number of its own width (Formats), and
the kind of UNKNOWN_KIND_REQUEST is none of the catalogue's. A command of another kind has no field that could be ill-formed:
its operands' types hold exactly their values. -/

namespace Sys2Proof

/-- A number that fits a field of 1, 2, 4 or 8 bytes. -/
def fits8 (n : Nat) : Bool := decide (n < 256)
def fits16 (n : Nat) : Bool := decide (n < 65536)
def fits32 (n : Nat) : Bool := decide (n < 4294967296)
def fits64 (n : Nat) : Bool := decide (n < 18446744073709551616)

/-- Whether a command is well formed. -/
def Instr.wellFormed : Instr → Bool
  | .powerOnReset _ _ | .recovery _ _ | .selectAsserted _ _ | .selectReleased _ | .asyncLaneByte _ _ _ _ | .parserTake
  | .sweepTimerExpiry | .triggerInputChange _ _ | .filterRunComplete _ | .tickWrap | .scanTimerExpiry | .scanComplete _ _
  | .windowExpiry | .quietExpiry | .graceExpiry | .pageProgramComplete _ | .stateByteProgramComplete _
  | .pageReadComplete | .sectorEraseComplete _ | .flashTimeLimitExpiry | .serviceLineByte _ _ | .replySent _ _
  | .waitTimeout | .clockRisingEdge _ _ => true
  | .identify _ | .status _ | .readConfigPrimary _ | .readConfigAging _ | .readConfigPool _ | .readConfigBudget _
  | .readConfigAdc _ | .readConfigEpoch _ | .saveConfig _ | .setTimeClear _ | .getTime _ | .openEpoch _ | .rearm _
  | .format _ => true
  | .unknownKindRequest _ kind => fits8 kind && (decide (kind = 0) || decide (22 < kind))
  | .configureLane _ lane mode divisor _ _ => fits16 lane && fits8 mode && fits16 divisor
  | .configureTrigger _ line polarity filterCode prescale mode =>
    fits16 line && fits8 polarity && fits8 filterCode && fits8 prescale && fits8 mode
  | .configureDomain _ domain _ _ base spanExponent => fits16 domain && fits16 base && fits8 spanExponent
  | .configurePrimary _ _ _ domain spanExponent => fits8 domain && fits8 spanExponent
  | .configureStreams _ first count enabled blockLimit => fits16 first && fits16 count && fits8 enabled && fits8 blockLimit
  | .configureAging _ first last interval limit => fits16 first && fits16 last && fits8 interval && fits8 limit
  | .configurePool _ reserve => fits16 reserve
  | .configureBudget _ scale capacitance floor reserve pageCost ceiling =>
    fits16 scale && fits16 capacitance && fits16 floor && fits32 reserve && fits16 pageCost && fits8 ceiling
  | .configureAdc _ interval failThreshold restoreThreshold count =>
    fits8 interval && fits16 failThreshold && fits16 restoreThreshold && fits8 count
  | .configureEpoch _ window quiet grace holdupGrace powerOpens rearmPolicy closeReserve =>
    fits16 window && fits8 quiet && fits8 grace && fits8 holdupGrace && fits8 powerOpens && fits8 rearmPolicy
      && fits16 closeReserve
  | .readConfigLane _ index => fits16 index
  | .readConfigTrigger _ index => fits16 index
  | .readConfigDomain _ domain => fits16 domain
  | .readConfigStreams _ first count => fits16 first && fits16 count
  | .setTimeSet _ seconds microseconds => fits64 seconds && fits32 microseconds
  | .log _ code data => fits16 code && fits8 data.length
  | .flush _ choice => fits8 choice
  | .listRecords _ fromSeq count => fits32 fromSeq && fits8 count
  | .readRecord _ seq offset length => fits32 seq && fits32 offset && fits16 length
  | .verify _ seq => fits32 seq
  | .release _ upTo expectedOldest => fits32 upTo && fits32 expectedOldest
  | .readStreamPeek _ stream => fits16 stream
  | .readStreamTake _ stream => fits16 stream
  | .takeAnomaliesTake _ count => fits8 count
  | .takeAnomaliesPeek _ count => fits8 count
  | .readHistory _ fromSeq count => fits32 fromSeq && fits8 count
  | .countersPeek _ group index => fits8 group && fits8 index
  | .countersTake _ group index => fits8 group && fits8 index
  | .wait _ condition argument timeout => fits8 condition && fits32 argument && fits16 timeout
  | .restart _ force => fits8 force

end Sys2Proof
end

