-- ==== Sys2Proof/Certificates/Slice0/Obligations.lean ====
section
/-! DEFINITION. Certificates/Slice0/Obligations.lean: the statements for the provers, family by family. Each says what a
command or an operation of the CQ416 does, by the rules named in OBLIGATIONS.json. -/

open Sys2Proof Sys2Proof.Machine

/-! ## The machine -/

/-- A step takes the command at the front of the queue and runs it with the queue's rest (log 1). -/
def Obligations.StepRunsFrontCommand : Prop :=
  ∀ (s : State) (c : Instr) (rest : List Instr),
    step { s with pending := c :: rest } = exec c { s with pending := rest }

/-- The model's choice of log 1: with no command waiting one microsecond passes. The tick rises, every running timer loses one
microsecond, each timer that then ends puts its command in the queue, once and in the order log 1 fixes, and nothing else
changes. -/
def Obligations.EmptyQueuePassesOneMicrosecond : Prop :=
  ∀ s : State, s.pending = [] → ∃ t, step s = .next t ∧
    t.tick = (if s.tick + 1 < 2 ^ 48 then s.tick + 1 else s.tick) ∧
    t.sweepTimer = s.sweepTimer.map (· - 1) ∧
    t.monitor = { s.monitor with scanTimer := s.monitor.scanTimer.map (· - 1) } ∧
    t.epoch = { s.epoch with
      windowTimer := s.epoch.windowTimer.map (· - 1)
      quietTimer := s.epoch.quietTimer.map (· - 1)
      graceTimer := s.epoch.graceTimer.map (· - 1) } ∧
    (∀ x, s.port.inFlight = some x → t.port = { s.port with inFlight := some { x with limit := x.limit.map (· - 1) } }) ∧
    (∀ w, s.link.parked = some w → t.link = { s.link with parked := some { w with timer := w.timer.map (· - 1) } }) ∧
    (s.port.inFlight = none → t.port = s.port) ∧ (s.link.parked = none → t.link = s.link) ∧
    (let ends (timer : Option Nat) (c : Instr) : List Instr :=
       match timer with
       | some n => if n ≤ 1 then [c] else []
       | none => []
     let held (line : LineNo) : List Instr :=
       match (s.line line).run with
       | some (_, start) =>
         if ((s.tick + 1) % 2 ^ 48 + 2 ^ 48 - start) % 2 ^ 48 = filterTime (s.line line).settings.filterCode then
           [.filterRunComplete line]
         else []
       | none => []
     t.pending = (if 2 ^ 48 ≤ s.tick + 1 then [.tickWrap] else [])
       ++ held 0 ++ held 1 ++ held 2 ++ held 3 ++ held 4 ++ held 5
       ++ ends s.sweepTimer .sweepTimerExpiry ++ ends s.monitor.scanTimer .scanTimerExpiry
       ++ ends s.epoch.windowTimer .windowExpiry ++ ends s.epoch.quietTimer .quietExpiry
       ++ ends s.epoch.graceTimer .graceExpiry
       ++ ends (s.port.inFlight.bind fun x => x.limit) .flashTimeLimitExpiry
       ++ ends (s.link.parked.bind fun w => w.timer) .waitTimeout) ∧
    { t with
      tick := s.tick, sweepTimer := s.sweepTimer, monitor := s.monitor, epoch := s.epoch, port := s.port, link := s.link,
      pending := [] } = s

/-- Every step completes while the operation in flight names a page of the device. No command is ever refused, and a command
faults only when the flash operation in flight names a page past the device's 131,072, which is the model's choice of log 40:
the manual names no such operation. A report of an operation of that kind, and the expiry of its limit, then fault. -/
def Obligations.StopsOnlyPastTheDevice : Prop :=
  (∀ s : State, s.PortInDevice → s.StepsOn) ∧
  (∀ c s r, exec c s ≠ .refused r) ∧
  (∀ c s f, exec c s = .fault f → ∃ x, s.port.inFlight = some x ∧ 131072 ≤ x.op.page ∧ f = .noSuchFlashPage x.op.page) ∧
  (∀ s x, s.port.inFlight = some x → 131072 ≤ x.op.page →
    (x.op.kind = .pageProgram → ∀ ok, exec (.pageProgramComplete ok) s = .fault (.noSuchFlashPage x.op.page)) ∧
    (x.op.kind = .stateByte → ∀ ok, exec (.stateByteProgramComplete ok) s = .fault (.noSuchFlashPage x.op.page)) ∧
    (x.op.kind = .pageRead → exec .pageReadComplete s = .fault (.noSuchFlashPage x.op.page)) ∧
    (x.op.kind = .erase → ∀ ok, exec (.sectorEraseComplete ok) s = .fault (.noSuchFlashPage x.op.page)) ∧
    (x.limit.isSome = true → exec .flashTimeLimitExpiry s = .fault (.noSuchFlashPage x.op.page)))

/-- Every step keeps the canonical form of both byte memories. -/
def Obligations.StepKeepsMemoryCanonical : Prop := ∀ s t : State, s.MemoryCanonical → step s = .next t → t.MemoryCanonical

/-- Every step keeps the commit queue, the history ring, the post-trigger list, the anomaly queue and the request queue within
their capacities, the commit queue in class order, and the post-trigger list empty, with the ring live, in WATCH. -/
def Obligations.StepKeepsCapacities : Prop :=
  ∀ s t : State, step s = .next t →
    (s.WithinCapacity → t.WithinCapacity) ∧ (s.QueueInOrder → t.QueueInOrder) ∧
    (s.ListEmptyInWatch → t.ListEmptyInWatch)

/-- Every step from a state whose source map is within its law keeps the law of the blocks: each of the 2048 blocks is on the
free list, in the chain of one ASSEMBLING stream, in the chain of one queued record, or in what remains of the record in
flight, and nowhere else; and in WATCH and CLOSED no stream is ASSEMBLING or DISCARDING, the commit queue is empty and
nothing is in flight, so that every block is free. The other fields of the law are what keeps these from step to step (log 6
for the block bytes, which it does not speak of). -/
def Obligations.StepKeepsBlocksInOnePlace : Prop :=
  ∀ s t : State, s.MapLawful → s.BlocksLawful → step s = .next t →
    t.BlocksLawful ∧
    (t.epoch.state = .watch ∨ t.epoch.state = .closed → t.freeList.Perm (List.range 2048) ∧
      ∀ i, i < 512 → (t.stream i).state = .idle ∨ (t.stream i).state = .barred)

/-- Every step keeps the law of the source map, for the active and for the prospective configuration: the ranges of the valid
domain-table entries and of the enabled primary domain lie within 0 to 511 and are pairwise disjoint. After a reset the law
holds when the settings that start-up loads obey it: an image is loaded as it stands (log 10). The default settings obey it.
-/
def Obligations.StepKeepsSourceMapLaw : Prop :=
  (∀ s t : State, s.BlocksLawful → s.MapLawful → step s = .next t →
    (∀ c rest, s.pending = c :: rest →
      (∃ a b, c = .powerOnReset a b) ∨ (∃ n a b, c = .recovery (some n) (.reset a b)) ∨
        (∃ a b r, c = .replySent a b ∧ s.link.tx.head? = some r ∧ r.reset = true) →
      (loadImage t.flash).settings.MapLawful) →
    t.MapLawful) ∧
  Settings.default.MapLawful

/-- The reset state has both memories in canonical form and every queue within its capacity and in order, its blocks each in
one place, and its source map within its law. -/
def Obligations.ResetMeetsInvariants : Prop :=
  State.reset.MemoryCanonical ∧ State.reset.WithinCapacity ∧ State.reset.QueueInOrder ∧ State.reset.ListEmptyInWatch ∧
  State.reset.BlocksLawful ∧ State.reset.MapLawful

/-- What no command but its own changes. A command that is not a report or limit of the flash, recovery, a reset or the end of
a reply leaves every byte of the flash unchanged, and only the parser's taking of a fragment stores bytes in the block memory
(log 6). TICK_WRAP returns the tick to 0 and raises the wrap count, which saturates (also when the tick stands elsewhere, log
2). No other command but a power-on reset, recovery's being cut short by one included, changes the tick or the wrap count; a
RESTART keeps both. -/
def Obligations.MemoriesAndTimeChangeOnlyByTheirCommands : Prop :=
  (∀ (c : Instr) (s t : State), c.mayChangeFlash = false → exec c s = .next t → ∀ a, t.flashByte a = s.flashByte a) ∧
  (∀ (c : Instr) (s t : State), c ≠ .parserTake → exec c s = .next t → ∀ a, t.poolByte a = s.poolByte a) ∧
  (∀ s : State, exec .tickWrap s = .next { s with tick := 0, wrap := if s.wrap < 65535 then s.wrap + 1 else s.wrap }) ∧
  ∀ (c : Instr) (s t : State), (∀ a b, c ≠ .powerOnReset a b) → (∀ n a b, c ≠ .recovery (some n) (.reset a b)) →
    c ≠ .tickWrap → exec c s = .next t → t.tick = s.tick ∧ t.wrap = s.wrap

/-! ## Reset and recovery -/

/-- POWER_ON_RESET completes from every state. The tick and the wrap count are 0, the anchor is absent, the last reset reads
POWER_ON, and everything else is as `State.AfterReset` lists it: the settings come from the stored image or are the defaults,
every volatile piece of state takes its reset value, and the flash is kept but for an operation in flight, which is stopped
where it had come. The straps are the command's operands (log 35), the block memory's bytes are kept (log 6), and the store
pointers and the epoch number until recovery are log 8. The waiting commands are kept (log 42), the line shows no reply sent
(log 36, log 42), and an idle stream's source reads 0 and 0 (log 44): the model's choices. -/
def Obligations.PowerOnResetState : Prop :=
  ∀ (first second : Bool) (s : State), ∃ t, exec (.powerOnReset first second) s = .next t ∧
    t.tick = 0 ∧ t.wrap = 0 ∧ t.anchor = none ∧ t.lastReset = .powerOn ∧ t.link.lineOut = [] ∧
    s.AfterReset t first second ∧
    (∀ flash : List Host.Cell, Memory.isClear flash 0 65536 = true → loadImage flash = ⟨Settings.default, 0, some 1⟩) ∧
    (∀ flash : List Host.Cell, Memory.isClear flash 0 65536 = false →
      imagePasses (Memory.load 0xFF flash 0 1416) = false → loadImage flash = ⟨Settings.default, 0, some 2⟩)

/-- RECOVERY, while it is due and no reset cuts it short, runs to its end in one step (log 13) from every state and with any
failure of the flash, and leaves the timebase, the lanes, the commands that wait and the requests of the service link as they
are. Once ended it does nothing more (log 2). Recovery of a blank store, with the policy AUTO and the main rail up, leaves the
pointers at the values of a blank store and the part in WATCH with the epoch number 0, programs nothing, and finds no record
present (the model's own list of them, log 47). -/
def Obligations.RecoveryEndsAndFindsBlankStore : Prop :=
  (∀ (program : Option Nat) (cut : RecoveryCut) (s : State),
    (s.recovering = true → (∀ n a b, program = some n → cut = .reset a b → (s.recover (some (n, cut))).stopped = false) →
      ∃ t, exec (.recovery program cut) s = .next t ∧ t.recovering = false ∧ t.tick = s.tick ∧
        t.wrap = s.wrap ∧ t.anchor = s.anchor ∧ t.imageSeq = s.imageSeq ∧ t.lanes = s.lanes ∧ t.heldOrder = s.heldOrder ∧
        t.pending = s.pending ∧ t.monitor = s.monitor ∧ t.link.queue = s.link.queue ∧ ∀ a, t.poolByte a = s.poolByte a) ∧
    (s.recovering = false → exec (.recovery program cut) s = .next s)) ∧
  (∀ (program : Option Nat) (cut : RecoveryCut) (s : State), s.recovering = true → s.flash = [] → s.monitor.power = .main →
    s.epoch.settings.autoRearm = true → s.epoch.settings.closeReserve ≤ 1024 → s.writer = Writer.start →
    s.examDue = false → s.link.server = .free → s.link.parked = none →
    ∃ t, exec (.recovery program cut) s = .next t ∧ t.epoch = { s.epoch with state := .watch, number := 0 } ∧
      t.store = { s.store with
        tail := 256, erasedRun := 130816, oldest := none, releasedEnd := none, lastSeq := 0, lastCheck := 1,
        lastEpoch := 0, lastSectorSeq := 0, low := false, exhausted := false, records := [] } ∧
      (∀ n, 1 ≤ n → n < 512 → t.dir n = .blank) ∧ t.flash = [] ∧
      t.history = s.history.merge.place s.tick (.part .epoch) 0x0205 [3] ∧ t.anomalies = s.anomalies)

/-- Recovery's mark scan, walk and re-check. Page 0 of a sector that reads wholly 0xFF leaves it unknown, a passing mark puts
it in use with the sequence of the header at its first-record page (none where the mark names none or no header stands there),
any other page 0 damages it. The walk starts at the first record of the log; a page wholly 0xFF ends it there; a
torn header page, a failed header check or a sequence not above the last accepted one loses the rest of its sector, which is
counted, and the walk goes on in the next in-use sector (log 25); a record that passes is accepted, a BEGUN one turned TORN,
and the walk steps by its pages. The accepted sequences rise strictly and no accepted record is left BEGUN. The re-check
turns a VALID record of the newest epoch TORN when its check fails, and changes no other. A record is sound when the check
recomputed over its payload bytes, from the previous check of its header, is the one its trailer holds, and the trailer
repeats its length; its bytes are those of its pages, mark pages skipped. -/
def Obligations.RecoveryScansAndWalksLog : Prop :=
  (∀ (s : State) (n : Nat), 1 ≤ n → n < 512 → Memory.wf 0xFF s.flash = true →
    let page := s.page (n * 256)
    ((∀ b ∈ page, b = 0xFF) → s.markScan.dir n = .unknown) ∧
    (∀ m, Mark.parse page = some m →
      let first := s.page (n * 256 + m.firstRecord)
      s.markScan.dir n = .inUse m
        (if m.firstRecord = 0 ∨ first.headD 0xFF = 0xFF then none else (Header.parse first).map Header.seq)) ∧
    ((∃ b ∈ page, b ≠ 0xFF) → Mark.parse page = none → s.markScan.dir n = .damaged)) ∧
  (∀ (w : Option (Nat × RecoveryCut)) (r : Run),
    let walked := r.walkLog w
    (r.st.inUse = [] → walked = ⟨r, [], 256⟩) ∧
    (∀ p, firstRecordPage r.st.inUse = some p → walked = walk w 131072 none p r []) ∧
    (walked.newestFirst.reverse.map fun a => a.header.seq).Pairwise (· < ·) ∧
    ∀ a ∈ walked.newestFirst, a.state ≠ .begun ∧ a.state ≠ .erased) ∧
  (∀ (w : Option (Nat × RecoveryCut)) (fuel : Nat) (prev : Option Nat) (p : Nat) (r : Run) (acc : List Accepted),
    let s := r.st
    let page := s.page p
    let lost : Run := { r with st := s.losePages (256 - p % 256) }
    let fails := (page.headD 0xFF = 0xFF ∧ ∃ b ∈ page, b ≠ 0xFF) ∨
      (page.headD 0xFF ≠ 0xFF ∧ ∀ h, Header.parse page = some h → ∃ x, prev = some x ∧ h.seq ≤ x)
    ((∀ b ∈ page, b = 0xFF) → walk w (fuel + 1) prev p r acc = ⟨r, acc, p⟩) ∧
    (∀ q, fails → firstRecordPage (s.inUseAfter (p / 256)) = some q →
      walk w (fuel + 1) prev p r acc = walk w fuel prev q lost acc) ∧
    (fails → firstRecordPage (s.inUseAfter (p / 256)) = none →
      walk w (fuel + 1) prev p r acc = ⟨lost, acc, s.afterNewest⟩) ∧
    (∀ h, page.headD 0xFF ≠ 0xFF → Header.parse page = some h → (∀ x, prev = some x → x < h.seq) →
      let torn := h.state = 0x7F
      let r' := if torn then r.tear w p else r
      let a : Accepted := ⟨p, h, if torn then .torn else RecState.read h.state⟩
      match stepPages ((48 + h.payloadLen + 255) / 256) p (r'.st.inUseAfter (p / 256)) with
      | .inl (q, _) => walk w (fuel + 1) prev p r acc = walk w fuel (some h.seq) q r' (a :: acc)
      | .inr q => walk w (fuel + 1) prev p r acc = ⟨r', a :: acc, q⟩)) ∧
  (∀ (r : Run) (p : Nat), r.stopped = false → r.st.port.fault = false →
    let t := r.tear none p
    (∀ a, t.st.flashByte a = if a = p * 256 then 0x1F else r.st.flashByte a) ∧
    t.st.store = { r.st.store with tornRecords := satInc max16 r.st.store.tornRecords } ∧
    { t.st with flash := r.st.flash, store := r.st.store } = r.st) ∧
  (∀ (w : Option (Nat × RecoveryCut)) (epoch : Nat) (a : Accepted) (rest : List Accepted) (r : Run),
    recheck w epoch [] r = ([], r) ∧
    (a.state = .valid → a.header.epoch = epoch → r.st.recordSound a.page a.header = false →
      recheck w epoch (a :: rest) r =
        ({ a with state := .torn } :: (recheck w epoch rest (r.tear w a.page)).1, (recheck w epoch rest (r.tear w a.page)).2)) ∧
    (a.state ≠ .valid ∨ a.header.epoch ≠ epoch ∨ r.st.recordSound a.page a.header = true →
      recheck w epoch (a :: rest) r = (a :: (recheck w epoch rest r).1, (recheck w epoch rest r).2))) ∧
  (∀ (s : State) (p : Nat), s.page p = (List.range 256).map fun i => s.flashByte (p * 256 + i)) ∧
  (∀ (s : State) (p : Nat) (h : Header),
    let n := h.payloadLen
    s.recordSound p h = true ↔
      payloadCheck h.prevCheck ((List.range n).map fun i => s.frameByte p (40 + i)) = s.frameNat p (40 + n) 4 ∧
      s.frameNat p (44 + n) 4 = n)

/-- What recovery makes of the walk. The newest epoch. The erased run is the longest that the rule gives: with the pages from
the tail to the end of its sector blank it takes them in, and every wholly blank sector not in use that follows without a
gap; the first that is not wholly blank becomes damaged. With a page after the tail not blank, the tail moves to page 0 of
the next sector and the pages skipped are lost; with only the tail's own page not blank, or at page 0 of a sector in use, the
run is 0 (log 25). Every page of the run reads blank. Sectors still unknown become damaged. The pointers: last sequence is
the largest sequence accepted, or 0; last check the trailer check of the last VALID or RELEASED record, or 1; oldest the
first VALID or TORN one; the released prefix end the last RELEASED record before it; last epoch and the epoch number the
newest epoch; last sector sequence the largest in use, or 0; EXHAUSTED and LOW by their rules; the records present are those
accepted (the model's own list, log 47). Nothing else changes. A power-on reset that stops the walk or the re-check leaves last
sequence and last check as they were (the model's choice, log 8, log 13). -/
def Obligations.RecoverySetsRunAndPointers : Prop :=
  (∀ (s : State) (fuel tail : Nat), Memory.wf 0xFF s.flash = true → 256 ≤ tail → tail < 131072 →
    let sector := tail / 256
    let t := blankCheck (fuel + 1) tail s
    let on (j : Nat) : Nat := (sector + j) % 511 + 1
    let blank (lo hi : Nat) : Prop := ∀ a, lo ≤ a → a < hi → s.flashByte a = 0xFF
    let inUse (n : Nat) : Prop := ∃ m f, s.dir n = .inUse m f
    let rest := blank ((tail + 1) * 256) ((sector + 1) * 65536)
    let stopped (u : State) : State := { u with store := { u.store with tail := tail, erasedRun := 0 } }
    (tail % 256 = 0 → inUse sector → t = stopped s) ∧
    (tail % 256 ≠ 0 ∨ ¬ inUse sector →
      (¬ rest → t = blankCheck fuel (on 0 * 256) { s.damage sector with
        store := { s.store with lostPages := min 65535 (s.store.lostPages + (256 - tail % 256)) } }) ∧
      (rest → ¬ blank (tail * 256) ((tail + 1) * 256) → t = stopped (s.damage sector)) ∧
      (∀ k, rest → blank (tail * 256) ((tail + 1) * 256) → k ≤ 510 →
        (∀ j, j < k → ¬ inUse (on j) ∧ blank (on j * 65536) ((on j + 1) * 65536)) →
        (k < 510 → inUse (on k) ∨ ¬ blank (on k * 65536) ((on k + 1) * 65536)) →
        t.store = { s.store with tail := tail, erasedRun := 256 - tail % 256 + 256 * k } ∧
        (∀ n, 1 ≤ n → n < 512 →
          (n = sector ∧ tail % 256 = 0 ∨ (∃ j, j < k ∧ n = on j) → t.dir n = .blank) ∧
          (k < 510 → n = on k → ¬ inUse n → t.dir n = .damaged) ∧
          ((n = sector → tail % 256 ≠ 0) → (∀ j, j < k → n ≠ on j) → (k < 510 → n = on k → inUse n) →
            t.dir n = s.dir n)) ∧
        { t with store := s.store, directory := s.directory } = s))) ∧
  (∀ (s : State) (n : Nat), ((∃ m f, s.dir n = .inUse m f) → s.damage n = s) ∧
    ((∀ m f, s.dir n ≠ .inUse m f) → s.damage n = s.setDir n .damaged)) ∧
  (∀ (s : State) (tail : Nat), Memory.wf 0xFF s.flash = true →
    let t := blankCheck 511 tail s
    t.flash = s.flash ∧
    ∀ k, k < t.store.erasedRun → ∀ i, i < 256 →
      t.flashByte ((List.range k).foldl (fun p _ => nextPage p) t.store.tail * 256 + i) = 0xFF) ∧
  (∀ (s : State) (n : Nat), 1 ≤ n → n < 512 →
    s.damageUnknown.dir n = if s.dir n = .unknown then .damaged else s.dir n) ∧
  (∀ (s : State) (newestFirst : List Accepted),
    (∀ a rest, newestFirst = a :: rest → newestEpoch s newestFirst = a.header.epoch) ∧
    (newestFirst = [] → (s.inUse = [] → newestEpoch s newestFirst = 0) ∧
      ∀ front x, s.inUse = front ++ [x] → newestEpoch s newestFirst = x.mark.epoch)) ∧
  (∀ (s : State) (w : Option (Nat × RecoveryCut)),
    let walked := Run.walkLog ⟨s.markScan, 0, false⟩ w
    let epoch := newestEpoch walked.run.st walked.newestFirst
    let checked := recheck w epoch walked.newestFirst.reverse walked.run
    (checked.2.stopped = false → s.recover w = Run.closeInterrupted { checked.2 with
      st := (blankCheck 511 walked.tail checked.2.st).damageUnknown.setPointers checked.1 epoch } w checked.1 epoch) ∧
    (checked.2.stopped = true → s.recover w = checked.2 ∧
      checked.2.st.store.lastSeq = s.store.lastSeq ∧ checked.2.st.store.lastCheck = s.store.lastCheck)) ∧
  (∀ (s : State) (p n : Nat), s.trailerCheck p n = s.frameNat p (40 + n) 4) ∧
  (∀ (s : State) (inOrder : List Accepted) (epoch : Nat),
    let t := s.setPointers inOrder epoch
    let unreleased (a : Accepted) := a.state = .valid ∨ a.state = .torn
    let kept (a : Accepted) := a.state = .valid ∨ a.state = .released
    (inOrder = [] → t.store.lastSeq = 0) ∧ (∀ a ∈ inOrder, a.header.seq ≤ t.store.lastSeq) ∧
    (inOrder ≠ [] → ∃ a ∈ inOrder, t.store.lastSeq = a.header.seq) ∧
    (∀ front a rest, inOrder = front ++ a :: rest → (∀ b ∈ front, ¬ unreleased b) → unreleased a →
      t.store.oldest = some (a.header.seq, a.page) ∧
      ((∀ b ∈ front, b.state ≠ .released) → t.store.releasedEnd = none) ∧
      (∀ before r after, front = before ++ r :: after → r.state = .released → (∀ b ∈ after, b.state ≠ .released) →
        t.store.releasedEnd = some r.header.seq)) ∧
    ((∀ a ∈ inOrder, ¬ unreleased a) → t.store.oldest = none ∧
      ((∀ b ∈ inOrder, b.state ≠ .released) → t.store.releasedEnd = none) ∧
      (∀ before r after, inOrder = before ++ r :: after → r.state = .released → (∀ b ∈ after, b.state ≠ .released) →
        t.store.releasedEnd = some r.header.seq)) ∧
    ((∀ a ∈ inOrder, ¬ kept a) → t.store.lastCheck = 1) ∧
    (∀ front a rest, inOrder = front ++ a :: rest → kept a → (∀ b ∈ rest, ¬ kept b) →
      t.store.lastCheck = s.trailerCheck a.page a.header.payloadLen) ∧
    (∀ x ∈ s.inUse, x.mark.seq ≤ t.store.lastSectorSeq) ∧
    (s.inUse = [] → t.store.lastSectorSeq = 0) ∧ (s.inUse ≠ [] → ∃ x ∈ s.inUse, t.store.lastSectorSeq = x.mark.seq) ∧
    t.store.lastEpoch = epoch ∧ t.epoch = { s.epoch with number := epoch } ∧
    (t.store.exhausted = true ↔ 2 ^ 32 - 1 ≤ t.store.lastSeq ∨ 2 ^ 32 - 1 ≤ t.store.lastSectorSeq) ∧
    t.store.low = t.lowNow ∧
    t.store.records = (inOrder.map fun a => ⟨a.header.seq, a.page, a.header.payloadLen⟩) ∧
    t.store.tail = s.store.tail ∧ t.store.erasedRun = s.store.erasedRun ∧
    t.store.tornRecords = s.store.tornRecords ∧ t.store.lostPages = s.store.lostPages ∧
    { t with store := s.store, epoch := s.epoch } = s)

/-- Recovery closes an interrupted epoch. With no OPEN_MARK of the newest epoch accepted, or with a VALID or RELEASED
CLOSE_MARK after it, nothing is written. Otherwise a CLOSE_MARK is due, whose 30 payload bytes hold the newest epoch, the
open cause and tick of its OPEN_MARK's payload (of one that is TORN no cause and its header's first timestamp), the flush
cause INTERRUPTED with tick 0, the power state, whether a HISTORY was kept, and the counts of the epoch's DUMPs kept and
torn, the rest 0. It takes one page, or two at page 0 of a sector: where they do not fit, or with EXHAUSTED set (log 26),
STORE_FULL is queued with that number; in FAULT nothing happens; else the record is programmed with the next sequence and the
chain seed, turns VALID and becomes the last record, its pages counted once and neither the budget nor the writer touched
(log 26); it joins the records present (log 47), and a mark before it puts its sector in use with this record as its first.
A reset that stops its state byte leaves the record BEGUN or VALID with the pointers as they were, and recovery is due again
after it (log 13): what it leaves is what a power-on reset leaves, in which the block bytes are log 6, the pointers and the
epoch number until then log 8, the straps log 35, the commands that wait log 42 and an idle stream's source log 44. (An
OPEN_MARK whose payload length is not 47 is left out.) -/
def Obligations.RecoveryClosesInterruptedEpoch : Prop :=
  (∀ (r : Run) (w : Option (Nat × RecoveryCut)) (inOrder : List Accepted) (epoch : Nat),
    let openMark (a : Accepted) := a.header.epoch = epoch ∧ a.header.kind = 5
    let s := r.st
    let done := r.closeInterrupted w inOrder epoch
    ((∀ a ∈ inOrder, ¬ openMark a) → done = r) ∧
    (∀ front o rest, inOrder = front ++ o :: rest → (∀ a ∈ front, ¬ openMark a) → openMark o →
      let closes (c : Accepted) := o.header.seq < c.header.seq ∧ c.header.epoch = epoch ∧ c.header.kind = 6 ∧
        (c.state = .valid ∨ c.state = .released)
      ((∃ c ∈ inOrder, closes c) → done = r) ∧
      ((∀ c ∈ inOrder, ¬ closes c) → o.header.payloadLen = 47 →
        let atMark := s.store.tail % 256 = 0
        let n := if atMark then 2 else 1
        let start := if atMark then s.store.tail + 1 else s.store.tail
        let payload := interruptedPayload s inOrder epoch o
        let info : RecInfo :=
          ⟨.closeMark, 0, ⟨0, 0⟩, 0, .complete, 0, false, 0, 0, 30, s.tick, s.tick⟩
        let seq := s.store.lastSeq + 1
        let check := payloadCheck s.store.lastCheck payload
        let frame (state : Byte) := headerBytes state info seq epoch s.store.lastCheck ++ payload ++ le 4 check ++ le 4 30
        let fits := s.store.exhausted = false ∧ n ≤ s.store.erasedRun ∧ s.port.fault = false ∧ r.stopped = false ∧
          s.epoch.number = epoch ∧ Memory.wf 0xFF s.flash = true ∧ s.store.lastSectorSeq < 4294967295
        let ofKind (kind : Nat) (states : List RecState) : List Accepted :=
          inOrder.filter fun a => decide (a.header.epoch = epoch ∧ a.header.kind = kind ∧ a.state ∈ states)
        let byte (i : Nat) : Nat := (s.frameByte o.page i).toNat
        (∀ cause line tick, (o.state = .valid ∨ o.state = .released →
            cause = byte 42 ∧ line = byte 43 ∧ tick = s.frameNat o.page 44 6) →
          (o.state ≠ .valid → o.state ≠ .released → cause = 0 ∧ line = 0 ∧ tick = o.header.firstTick) →
          Lays payload 30 [(0, 2, epoch), (2, 1, cause), (3, 1, line), (4, 6, tick), (10, 1, 8), (11, 1, 0), (12, 6, 0),
            (18, 1, match s.monitor.power with | .main => 1 | .holdup => 2),
            (19, 1, if ofKind 2 [.valid, .released] = [] then 0 else 4),
            (20, 2, min 65535 (ofKind 1 [.valid, .released]).length), (22, 2, min 65535 (ofKind 1 [.torn]).length),
            (24, 2, 0), (26, 2, 0), (28, 2, 0)]) ∧
        (s.store.exhausted = true ∨ s.store.erasedRun < n → done = { r with st := s.postPlain .storeFull none n }) ∧
        (s.store.exhausted = false → n ≤ s.store.erasedRun → s.port.fault = true → done = r) ∧
        (fits → w = none →
          let t := done.st
          (t.page start).take 78 = frame 0x3F ∧
          (∀ a, a / 256 ≠ start → a / 256 ≠ s.store.tail → t.flashByte a = s.flashByte a) ∧
          (atMark → (t.page s.store.tail).take 10 = (⟨s.store.lastSectorSeq + 1, epoch, 1⟩ : Mark).bytes ∧
            t.store.lastSectorSeq = s.store.lastSectorSeq + 1 ∧
            (s.store.tail < 131072 →
              t.dir (s.store.tail / 256) = .inUse ⟨s.store.lastSectorSeq + 1, epoch, 1⟩ (some seq))) ∧
          (¬ atMark → t.store.lastSectorSeq = s.store.lastSectorSeq) ∧
          t.store.lastSeq = seq ∧ t.store.lastCheck = check ∧ t.store.lastEpoch = epoch ∧
          t.store.tail = nextPage start ∧ t.store.erasedRun = s.store.erasedRun - n ∧
          t.store.oldest = (match s.store.oldest with | some o => some o | none => some (seq, start)) ∧
          t.store.records = s.store.records ++ [(⟨seq, start, 30⟩ : LogRecord)] ∧
          t.commit = { s.commit with
            pages := (if atMark then satInc max32 (satInc max32 s.commit.pages) else satInc max32 s.commit.pages) } ∧
          t.budget = s.budget ∧ t.writer = s.writer ∧ t.anomalies = s.anomalies ∧ t.history = s.history) ∧
        (∀ a b, fits → w = some (r.issued + n, .reset a b) →
          done.stopped = true ∧
          ((done.st.page start).take 78 = frame 0x7F ∨ (done.st.page start).take 78 = frame 0x3F) ∧
          done.st.store.lastSeq = s.store.lastSeq ∧ done.st.store.lastCheck = s.store.lastCheck)))) ∧
  (∀ (s : State) (n : Nat) (a b : Bool), s.recovering = true → (s.recover (some (n, .reset a b))).stopped = true →
    ∃ t, exec (.recovery (some n) (.reset a b)) s = .next t ∧ (s.recover (some (n, .reset a b))).st.AfterReset t a b ∧
      t.tick = 0 ∧ t.wrap = 0 ∧ t.anchor = none ∧ t.lastReset = .powerOn)

/-! ## Capture lanes -/

/-- The lane commands of CLOCKED (the model's choices: slot 0 first where both are EMPTY, log 18; a select already at the
level changes nothing, log 2). SELECT_ASSERTED. In WAITING a fragment begins: an EMPTY slot becomes FILLING, or, with neither
EMPTY, the fragment is discarded with OVERRUN and the lane skips; an assertion that a reconfiguration of the same moment has
found already makes the lane skip without a count (log 38). While READY is asserted no OVERRUN is counted. CLOCK_RISING_EDGE.
While select is asserted and the lane is RECEIVING a bit is sampled; the eighth completes a byte, the first bit its most
significant, which is stored, or, past the 264th, discards the fragment with LENGTH; every other edge is ignored.
SELECT_RELEASED. The fragment in progress ends: an incomplete byte discards it with LENGTH; else it is HELD, after every
fragment HELD already, or discarded by the first check it fails; a lane that skips waits again. -/
def Obligations.ClockedLaneGathersFragments : Prop :=
  (∀ (lane : LaneNo) (again : Bool) (s : State) (l : Lane), s.lane lane = l →
    (l.select = true → exec (.selectAsserted lane again) s = .next s) ∧
    (l.select = false → l.settings.mode ≠ .clocked ∨ l.rx ≠ .waiting →
      exec (.selectAsserted lane again) s = .next (s.setLane lane { l with select := true })) ∧
    (l.select = false → l.settings.mode = .clocked → l.rx = .waiting → again = true →
      exec (.selectAsserted lane again) s = .next (s.setLane lane { l with select := true, rx := .skipping })) ∧
    (l.select = false → l.settings.mode = .clocked → l.rx = .waiting → again = false →
      (l.slot0 = .empty → exec (.selectAsserted lane again) s = .next (s.setLane lane
        { l with select := true, rx := .receiving, escape := false, bits := [], slot0 := .filling [] })) ∧
      (l.slot0 ≠ .empty → l.slot1 = .empty → exec (.selectAsserted lane again) s = .next (s.setLane lane
        { l with select := true, rx := .receiving, escape := false, bits := [], slot1 := .filling [] })) ∧
      (l.slot0 ≠ .empty → l.slot1 ≠ .empty → exec (.selectAsserted lane again) s = .next (s.laneDiscard lane
        { l with select := true, rx := .skipping } .overrun))) ∧
    ((∀ b, l.slot0 ≠ .filling b) → (∀ b, l.slot1 ≠ .filling b) → l.settings.mode = .clocked →
      (l.ready = false ↔ l.slot0 ≠ .empty ∧ l.slot1 ≠ .empty)) ∧
    (l.settings.mode ≠ .clocked → l.ready = false)) ∧
  (∀ (lane : LaneNo) (bit : Bool) (s : State) (l : Lane), s.lane lane = l →
     (l.settings.mode ≠ .clocked ∨ l.rx ≠ .receiving ∨ l.select = false → exec (.clockRisingEdge lane bit) s = .next s) ∧
     (l.settings.mode = .clocked → l.rx = .receiving → l.select = true →
       (l.bits.length < 7 →
         exec (.clockRisingEdge lane bit) s = .next (s.setLane lane { l with bits := l.bits ++ [bit] })) ∧
       (∀ got, l.bits.length = 7 → l.filling = some got →
         (got.length < 264 → ∃ b : Byte, (∀ i, i < 8 → b.getLsbD (7 - i) = (l.bits ++ [bit]).getD i false) ∧
           exec (.clockRisingEdge lane bit) s = .next (s.setLane lane
             { l.setFilling (.filling (got ++ [b])) with escape := false, bits := [] })) ∧
         (264 ≤ got.length → exec (.clockRisingEdge lane bit) s = .next (s.laneDiscard lane
           { l.setFilling .empty with rx := .skipping, escape := false, bits := [] } .length))))) ∧
  (∀ (lane : LaneNo) (s : State) (l : Lane), s.lane lane = l →
     (l.select = false → exec (.selectReleased lane) s = .next s) ∧
     (l.select = true → l.settings.mode ≠ .clocked ∨ l.rx = .off ∨ l.rx = .waiting →
       exec (.selectReleased lane) s = .next (s.setLane lane { l with select := false })) ∧
     (l.select = true → l.settings.mode = .clocked → l.rx = .skipping →
       exec (.selectReleased lane) s = .next (s.setLane lane { l with select := false, rx := .waiting })) ∧
     (l.select = true → l.settings.mode = .clocked → l.rx = .receiving → ∀ got, l.filling = some got →
       (l.bits ≠ [] → exec (.selectReleased lane) s = .next (s.laneDiscard lane
         { l.setFilling .empty with select := false, rx := .waiting, escape := false, bits := [] } .length)) ∧
       (∀ k, l.bits = [] → completionCheck got = some k → exec (.selectReleased lane) s = .next (s.laneDiscard lane
         { l.setFilling .empty with select := false, rx := .waiting, escape := false, bits := [] } k)) ∧
       (l.bits = [] → completionCheck got = none → exec (.selectReleased lane) s = .next
         { s.setLane lane { l.setFilling (.held got) with select := false, rx := .waiting, escape := false, bits := [] } with
           heldOrder := s.heldOrder ++ [(lane, l.fillsSecond)] })))

/-- A lane error raises its own counter of the lane, which saturates at 65,535, and no other; under COUNT_AND_ANOMALY, and
only then, LANE_ERROR is posted with the lane, the tick and the error's code. Nothing outside the lane and the anomaly queue
changes under COUNT. The four completion checks, in their order, for any gathered bytes: at least 8 bytes, else LENGTH; a
kind 1 to 5 and a payload length in the kind's range, else BAD_HEADER; the length that the header names, else LENGTH; the
CRC-16, else CHECK. -/
def Obligations.LaneChecksAndErrors : Prop :=
  (∀ (s : State) (lane : LaneNo) (moved : Lane) (k : LaneError),
     let t := s.laneDiscard lane moved k
     let up (e : LaneError) (n : Nat) : Nat := if k = e ∧ n < 65535 then n + 1 else n
     let c := moved.counters
     let counted : Lane := { moved with counters := ⟨c.accepted, up .framing c.framing, up .parity c.parity,
       up .stuffing c.stuffing, up .overrun c.overrun, up .badHeader c.badHeader, up .length c.length, up .check c.check,
       up .aborted c.aborted, c.headerWarnings⟩ }
     t.lane lane = counted ∧
     (moved.settings.report = false → t = s.setLane lane counted) ∧
     (moved.settings.report = true → t = (s.setLane lane counted).post ⟨.laneError, some lane.val, none, none, s.tick,
       match k with
       | .framing => 1 | .parity => 2 | .stuffing => 3 | .overrun => 4 | .badHeader => 5 | .length => 6 | .check => 7
       | .aborted => 8⟩)) ∧
  (∀ bytes : List Byte,
     let at_ (i : Nat) : Nat := (bytes.getD i 0).toNat
     let n := at_ 5 + 256 * (at_ 1 / 128)
     let badHeader := at_ 0 = 0 ∨ 5 < at_ 0 ∨ (at_ 0 = 5 ∧ (n < 2 ∨ 26 < n)) ∨ (at_ 0 ≠ 5 ∧ 256 < n)
     (bytes.length < 8 → completionCheck bytes = some .length) ∧
     (8 ≤ bytes.length → badHeader → completionCheck bytes = some .badHeader) ∧
     (8 ≤ bytes.length → ¬ badHeader → bytes.length ≠ n + 8 → completionCheck bytes = some .length) ∧
     (8 ≤ bytes.length → ¬ badHeader → bytes.length = n + 8 →
       (crc16 bytes = 0 → completionCheck bytes = none) ∧ (crc16 bytes ≠ 0 → completionCheck bytes = some .check)))

/-- The CRC-16: the shift register bit by bit from 0xFFFF with polynomial 0x1021, its check value, and the residue 0 of any
bytes with their CRC appended. A lane fragment laid out as Formats gives it: a fragment whose fields its layout can hold
passes the three checks of a completed fragment, and its fields are read back as they were sent. -/
def Obligations.CrcAndLaneFragmentRoundTrip : Prop :=
  (crc16 [0x31, 0x32, 0x33, 0x34, 0x35, 0x36, 0x37, 0x38, 0x39] = 0x29B1#16 ∧
   crc16 [] = 0xFFFF#16 ∧
   (∀ (bytes : List Byte) (b : Byte), crc16 (bytes ++ [b]) =
     [7, 6, 5, 4, 3, 2, 1, 0].foldl (fun (r : BitVec 16) (i : Nat) =>
       let shifted := r <<< 1
       if (r.getLsbD 15 ^^ b.getLsbD i) = true then shifted ^^^ 0x1021#16 else shifted) (crc16 bytes)) ∧
   (∀ bytes : List Byte, crcBytes bytes = [(crc16 bytes).extractLsb' 8 8, (crc16 bytes).extractLsb' 0 8]) ∧
   (∀ bytes : List Byte, crc16 (bytes ++ crcBytes bytes) = 0#16)) ∧
  (∀ f : Fragment, f.Fits → completionCheck f.bytes = none ∧ Fragment.parse f.bytes = some f)

/-- ASYNC_LANE_BYTE. A byte with a low stop bit (FRAMING) or, under EVEN, an odd number of ones (PARITY) discards the frame
being gathered or, in WAITING, is an error by itself, and the lane skips; a good byte is taken by the receive state:
delimiters 0x7E, the escape 0x7D, and every other byte, with STUFFING for an escape that no 0x5E or 0x5D follows. The first
byte of a frame (or its escape) makes an EMPTY slot FILLING, slot 0 where both are (log 18); with neither EMPTY the fragment
is discarded with OVERRUN and the lane skips. A byte stored joins the FILLING slot; the 265th is not stored and discards the
fragment with LENGTH. The closing delimiter ends the fragment: it is HELD, after every fragment HELD already, or discarded by
the first check it fails, and the lane waits. -/
def Obligations.AsyncByteGathersFrame : Prop :=
  ∀ (lane : LaneNo) (data : Byte) (parityBit stopBit : Bool) (s : State) (l : Lane), s.lane lane = l →
    let ones := ((List.range 8).filter fun i => data.getLsbD i).length + parityBit.toNat
    let got := exec (.asyncLaneByte lane data parityBit stopBit) s
    let dropped (rx : LaneRx) : Lane := { l.setFilling .empty with rx := rx, escape := false, bits := [] }
    let begins (first : List Byte) (escape : Bool) : Prop :=
      let begun : Lane := { l with rx := .receiving, escape := escape, bits := [] }
      (l.slot0 = .empty → got = .next (s.setLane lane { begun with slot0 := .filling first })) ∧
      (l.slot0 ≠ .empty → l.slot1 = .empty → got = .next (s.setLane lane { begun with slot1 := .filling first })) ∧
      (l.slot0 ≠ .empty → l.slot1 ≠ .empty →
        got = .next (s.laneDiscard lane { l with rx := .skipping } .overrun))
    let stores (b : Byte) : Prop := ∀ bytes, l.filling = some bytes →
      (bytes.length < 264 → got = .next (s.setLane lane
        { l.setFilling (.filling (bytes ++ [b])) with escape := false, bits := [] })) ∧
      (264 ≤ bytes.length → got = .next (s.laneDiscard lane (dropped .skipping) .length))
    let ends : Prop := ∀ bytes, l.filling = some bytes →
      (∀ k, completionCheck bytes = some k → got = .next (s.laneDiscard lane (dropped .waiting) k)) ∧
      (completionCheck bytes = none → got = .next
        { s.setLane lane { l.setFilling (.held bytes) with rx := .waiting, escape := false, bits := [] } with
          heldOrder := s.heldOrder ++ [(lane, l.fillsSecond)] })
    (l.settings.mode ≠ .async → got = .next s) ∧
    (l.settings.mode = .async → ∀ k, (stopBit = false ∧ k = .framing) ∨
        (stopBit = true ∧ l.settings.parityEven = true ∧ ones % 2 = 1 ∧ k = .parity) →
      (l.rx = .waiting → got = .next (s.laneDiscard lane { l with rx := .skipping } k)) ∧
      (l.rx = .receiving → got = .next (s.laneDiscard lane (dropped .skipping) k)) ∧
      (l.rx = .skipping → got = .next s)) ∧
    (l.settings.mode = .async → stopBit = true → l.settings.parityEven = false ∨ ones % 2 = 0 →
      (l.rx = .skipping → data = 0x7E → got = .next (s.setLane lane { l with rx := .waiting })) ∧
      (l.rx = .skipping → data ≠ 0x7E → got = .next s) ∧
      (l.rx = .waiting → data = 0x7E → got = .next s) ∧
      (l.rx = .waiting → data = 0x7D → begins [] true) ∧
      (l.rx = .waiting → data ≠ 0x7E → data ≠ 0x7D → begins [data] false) ∧
      (l.rx = .receiving → l.escape = false → data = 0x7E → ends) ∧
      (l.rx = .receiving → l.escape = false → data = 0x7D → got = .next (s.setLane lane { l with escape := true })) ∧
      (l.rx = .receiving → l.escape = false → data ≠ 0x7E → data ≠ 0x7D → stores data) ∧
      (l.rx = .receiving → l.escape = true → data = 0x5E → stores 0x7E) ∧
      (l.rx = .receiving → l.escape = true → data = 0x5D → stores 0x7D) ∧
      (l.rx = .receiving → l.escape = true → data = 0x7E →
        got = .next (s.laneDiscard lane (dropped .waiting) .stuffing)) ∧
      (l.rx = .receiving → l.escape = true → data ≠ 0x5E → data ≠ 0x5D → data ≠ 0x7E →
        got = .next (s.laneDiscard lane (dropped .skipping) .stuffing)))

/-! ## The parser and the source map -/

/-- PARSER_TAKE of the fragment that became HELD first. An EVENT: its slot becomes EMPTY, the lane counts it accepted, and one
history entry is placed with the lane and source as origin, the event code from the first two payload bytes and the rest as
data; the port settles its claims and nothing else changes. With none HELD nothing is taken (log 2). A record fragment: a
FIRST or ONLY with another number than 0 is counted and taken as number 0. The source address is looked up through the primary
domain when it is enabled for the domain, else through the domain's entry; a failed lookup posts UNKNOWN_DOMAIN or
UNIT_OUT_OF_SPAN and the fragment goes no further; else it meets the epoch gate. -/
def Obligations.ParserTakesFragments : Prop :=
  (∀ s : State, (s.heldOrder = [] → exec .parserTake s = .next s) ∧
    ∀ (lane : LaneNo) (second : Bool) (rest : List (LaneNo × Bool)) (bytes : List Byte) (f : Fragment),
      s.heldOrder = (lane, second) :: rest →
      (if second then (s.lane lane).slot1 else (s.lane lane).slot0) = .held bytes →
      Fragment.parse bytes = some f → f.kind = .event → s.examDue = false →
      let l := s.lane lane
      let c : LaneCounters := { l.counters with accepted := satInc max32 l.counters.accepted }
      let u := s.setLane lane (if second then { l with slot1 := .empty, counters := c }
        else { l with slot0 := .empty, counters := c })
      exec .parserTake s = .next ({ u with
        heldOrder := rest
        history := ({ s.history with eventFragments := satInc max32 s.history.eventFragments }).place s.tick
          (.lane lane.val f.source) (fieldOf f.payload 0 2) (f.payload.drop 2) } : State).settlePort) ∧
  (∀ (s : State) (lane : LaneNo) (second : Bool) (rest : List (LaneNo × Bool)) (bytes : List Byte) (f : Fragment),
     s.heldOrder = (lane, second) :: rest →
     (if second then (s.lane lane).slot1 else (s.lane lane).slot0) = .held bytes →
     Fragment.parse bytes = some f → f.kind ≠ .event →
     let l := s.lane lane
     let warned := (f.kind = .first ∨ f.kind = .only) ∧ f.number ≠ 0
     let c : LaneCounters := { l.counters with
       accepted := satInc max32 l.counters.accepted
       headerWarnings := if warned then satInc max16 l.counters.headerWarnings else l.counters.headerWarnings }
     let u := { s with heldOrder := rest }.setLane lane
       (if second then { l with slot1 := .empty, counters := c } else { l with slot0 := .empty, counters := c })
     let g : Fragment := { f with number := if warned then 0 else f.number }
     let through (base spanExponent : Nat) (opens : Bool) : State :=
       if f.source.unit < 2 ^ spanExponent then u.gate ⟨g, lane.val, s.tick, base + f.source.unit, opens⟩
       else u.post ⟨.unitOutOfSpan, some lane.val, some f.source, none, s.tick, 2 ^ spanExponent⟩
     let p := s.primary.active
     let e := (s.domainEntry f.source.domain).active
     (p.enabled = true → p.domain = f.source.domain →
       exec .parserTake s = .next (through 0 p.spanExponent p.opensEpoch).finish) ∧
     (p.enabled = false ∨ p.domain ≠ f.source.domain → e.valid = true →
       exec .parserTake s = .next (through e.base e.spanExponent e.opensEpoch).finish) ∧
     (p.enabled = false ∨ p.domain ≠ f.source.domain → e.valid = false →
       exec .parserTake s = .next
         (u.post ⟨.unknownDomain, some lane.val, some f.source, none, s.tick, f.kind.code⟩).finish))

/-! ## Reassembly -/

/-- R42: a fragment for a BARRED stream is dropped in every epoch state, with STREAM_BARRED for a FIRST or an ONLY and
without an anomaly for a MIDDLE or LAST; the stream stays BARRED with its fields, and the epoch is not affected. -/
def Obligations.BarredStreamDropsFragments : Prop :=
  ∀ (s : State) (f : RecFragment), f.stream < 512 → (s.stream f.stream).state = .barred →
    (f.frag.kind = .first ∨ f.frag.kind = .only → (s.gate f).anomalies = (s.post ⟨.streamBarred, some f.lane,
      some f.frag.source, some f.stream, f.tick, if f.frag.kind = .first then 1 else 4⟩).anomalies) ∧
    (f.frag.kind = .middle ∨ f.frag.kind = .last → (s.gate f).anomalies = s.anomalies) ∧
    (s.gate f).stream f.stream = { s.stream f.stream with drops := satInc 255 (s.stream f.stream).drops } ∧
    (s.gate f).reassembly = { s.reassembly with dropped := satInc max32 s.reassembly.dropped } ∧
    (s.gate f).epoch = s.epoch ∧ (s.gate f).history = s.history ∧ (s.gate f).queue = s.queue ∧
    (s.gate f).freeList = s.freeList ∧ (s.gate f).pool = s.pool ∧
    ∀ i, i ≠ f.stream → (s.gate f).stream i = s.stream i

/-- R47: a MIDDLE or LAST for an IDLE stream is dropped, UNEXPECTED_CONTINUATION is posted with the kind code × 256 + the
number as detail, and the stream stays IDLE. -/
def Obligations.IdleStreamRefusesContinuation : Prop :=
  ∀ (s : State) (f : RecFragment), f.stream < 512 → (s.stream f.stream).state = .idle →
    f.frag.kind = .middle ∨ f.frag.kind = .last →
    let t := s.takeByState f
    t.anomalies = (s.post ⟨.unexpectedContinuation, some f.lane, some f.frag.source, some f.stream, f.tick,
      (if f.frag.kind = .middle then 2 else 3) * 256 + f.frag.number⟩).anomalies ∧
    t.stream f.stream = { s.stream f.stream with drops := satInc 255 (s.stream f.stream).drops } ∧
    t.reassembly = { s.reassembly with dropped := satInc max32 s.reassembly.dropped } ∧
    t.epoch = s.epoch ∧ t.history = s.history ∧ t.queue = s.queue ∧ t.freeList = s.freeList ∧ t.pool = s.pool ∧
    ∀ i, i ≠ f.stream → t.stream i = s.stream i

/-- The epoch gate for a stream that is not BARRED. In WATCH a FIRST or ONLY of an entry that opens an epoch asks for the
opening and is handled as in CAPTURE when the epoch opened; in CAPTURE every fragment goes on; in FLUSH a FIRST or ONLY is
dropped; in CLOSED every fragment is. NOT_CAPTURING carries the kind × 256 + the epoch state. A fragment that reassembly
admits makes its stream's age 0 and is counted by the unit and by the epoch's tally; in CAPTURE it starts the quiet timer
again with the full quiet time, unless the quiet code is 0; in FLUSH it leaves the timers alone. A dropped fragment, an EVENT
and an aging close touch neither the quiet timer nor the tally of admitted fragments. -/
def Obligations.GateAndAdmissionOfFragments : Prop :=
  (∀ (s : State) (f : RecFragment), (s.stream f.stream).state ≠ .barred →
     let opening := f.frag.kind = .first ∨ f.frag.kind = .only
     let refused (u : State) (state : Nat) : State := (u.dropFragment f.stream).post ⟨.notCapturing, some f.lane,
       some f.frag.source, some f.stream, f.tick, (if f.frag.kind = .first then 1 else 4) * 256 + state⟩
     (s.epoch.state = .watch → opening → f.opens = true →
       let u := s.openRequest (.source f.frag.source.domain)
       (s.store.low = false → s.writer.state ≠ .fault → u.epoch.state = .capture ∧ s.gate f = u.takeByState f) ∧
       (s.store.low = true ∨ s.writer.state = .fault → u.epoch = s.epoch ∧ s.gate f = refused u 1)) ∧
     (s.epoch.state = .watch → opening → f.opens = false → s.gate f = refused s 1) ∧
     (s.epoch.state = .watch → ¬ opening → s.gate f = s.dropFragment f.stream) ∧
     (s.epoch.state = .capture → s.gate f = s.takeByState f) ∧
     (s.epoch.state = .flush → opening → s.gate f = refused s 3) ∧
     (s.epoch.state = .flush → ¬ opening → s.gate f = s.takeByState f) ∧
     (s.epoch.state = .closed → s.gate f = s.dropFragment f.stream)) ∧
  (∀ (s : State) (i : Nat), i < 512 →
    let t := s.admitFragment i
    let quiet := duration s.epoch.settings.quiet
    (t.stream i = { s.stream i with record := { (s.stream i).record with age := 0 } }) ∧
    (∀ j, j ≠ i → t.stream j = s.stream j) ∧
    t.reassembly = { s.reassembly with admitted := satInc max32 s.reassembly.admitted } ∧
    t.epoch = { s.epoch with
      tally := { s.epoch.tally with admitted := satInc max16 s.epoch.tally.admitted }
      quietTimer := if s.epoch.state = .capture ∧ s.epoch.settings.quiet ≠ 0 then some (quiet * 1000)
        else s.epoch.quietTimer } ∧
    { t with streams := s.streams, reassembly := s.reassembly, epoch := s.epoch } = s) ∧
  (∀ (s : State) (f : RecFragment) (kind : AnomalyKind) (detail : Nat),
    (s.dropFragment f.stream).epoch = s.epoch ∧ (s.dropPosted f kind detail).epoch = s.epoch) ∧
  (∀ (s : State) (i : Nat) (how : Completion) (tick : Nat),
    (s.closeRecord i how tick).epoch.quietTimer = s.epoch.quietTimer ∧
    (s.closeRecord i how tick).epoch.tally.admitted = s.epoch.tally.admitted) ∧
  (∀ (s : State) (f : RecFragment) (p : InProgress), f.stream < 512 → (s.stream f.stream).state = .assembling →
    (s.stream f.stream).record = p → f.frag.kind = .middle → f.frag.number = p.expected → f.frag.number ≠ 255 →
    s.appendFails f.stream f.frag.payload.length = none →
    (s.takeByState f).epoch = { s.epoch with
      tally := { s.epoch.tally with admitted := satInc max16 s.epoch.tally.admitted }
      quietTimer := if s.epoch.state = .capture ∧ s.epoch.settings.quiet ≠ 0 then
        some (duration s.epoch.settings.quiet * 1000) else s.epoch.quietTimer })

/-- A FIRST for an IDLE stream opens a record with the values R45 lists; an ONLY makes a record of one fragment, closed
COMPLETE and handed over. When the pool or the limit fails the append, the record is handed over at once with no payload, and
a FIRST leaves the stream DISCARDING, an ONLY IDLE. The fragment is admitted in every case. -/
def Obligations.OpeningFragmentsOpenRecords : Prop :=
  ∀ (s : State) (f : RecFragment) (i : Nat), f.stream = i → i < 512 → (s.stream i).state = .idle →
    let p := f.frag.payload
    let opened : InProgress := ⟨f.frag.cls, 1, [], 0, 1, false, 0, f.tick, f.lane, 0, f.frag.source⟩
    let begun := s.setStream i { s.stream i with state := .assembling, record := opened }
    let entry (how : Completion) (bytes : Nat) (chain : List Nat) : QEntry :=
      ⟨⟨.dump, f.frag.cls, f.frag.source, i, how, f.lane, false, 0, 1, bytes, f.tick, f.tick⟩, chain, []⟩
    let chain := if p = [] then [] else s.freeList.take 1
    (f.frag.kind = .first → begun.appendFails i p.length = none → p.length ≤ 256 →
      ((s.takeByState f).stream i).state = .assembling ∧
      ((s.takeByState f).stream i).record = { opened with bytes := p.length, chain := chain } ∧
      (s.takeByState f).freeList = s.freeList.drop chain.length ∧ (s.takeByState f).queue = s.queue ∧
      (s.takeByState f).reassembly.admitted = satInc max32 s.reassembly.admitted) ∧
    (f.frag.kind = .only → begun.appendFails i p.length = none → p.length ≤ 256 →
      ∃ u : State, s.takeByState f = u.handOver (entry .complete p.length chain) ∧ u.queue = s.queue ∧
        (u.stream i).state = .idle ∧ (u.stream i).record = InProgress.idle ∧
        u.freeList = s.freeList.drop chain.length ∧
        u.reassembly.admitted = satInc max32 s.reassembly.admitted) ∧
    (∀ how, f.frag.kind = .first → begun.appendFails i p.length = some how →
      ∃ u : State, s.takeByState f = u.handOver (entry how 0 []) ∧ u.queue = s.queue ∧ (u.stream i).state = .discarding ∧
        u.freeList = s.freeList ∧ u.reassembly.admitted = satInc max32 s.reassembly.admitted) ∧
    (∀ how, f.frag.kind = .only → begun.appendFails i p.length = some how →
      ∃ u : State, s.takeByState f = u.handOver (entry how 0 []) ∧ u.queue = s.queue ∧ (u.stream i).state = .idle ∧
        u.freeList = s.freeList ∧ u.reassembly.admitted = satInc max32 s.reassembly.admitted)

/-- An ASSEMBLING stream. A MIDDLE or LAST with the number before the expected one is a duplicate, with an earlier one
stale; both are dropped. One with the expected number or a later one is taken, a gap noted; a LAST closes the record
COMPLETE and a MIDDLE numbered 255 closes it TRUNCATED (LENGTH). A failed append closes the record as it stood and drops the
fragment. A FIRST or ONLY closes the record TRUNCATED (RESTARTED) and is then taken as in IDLE. A DISCARDING stream drops
the rest of its record without an anomaly, whatever the fragment's number: a MIDDLE leaves it DISCARDING, a LAST makes it
IDLE with idle fields, a FIRST or ONLY is taken as by an IDLE stream; and the sweep does not advance its age. -/
def Obligations.AssemblingAndDiscardingStreams : Prop :=
  (∀ (s : State) (f : RecFragment) (i : Nat) (r : InProgress), f.stream = i → i < 512 →
    (s.stream i).state = .assembling → (s.stream i).record = r →
    let n := f.frag.number
    let p := f.frag.payload
    let went := s.takeByState f
    let entry (q : InProgress) (how : Completion) : QEntry :=
      ⟨⟨.dump, q.cls, q.source, i, how, q.firstLane, q.gap, q.missing, q.fragCount, q.bytes, q.firstTick, f.tick⟩,
        q.chain, []⟩
    let posted (kind : AnomalyKind) (detail : Nat) : State :=
      (s.dropFragment i).post ⟨kind, some f.lane, some f.frag.source, some i, f.tick, detail⟩
    let appended := ((s.appendStore i p).stream i).record
    let next : InProgress := { appended with
      gap := r.gap || decide (r.expected < n), missing := min 255 (r.missing + (n - r.expected)),
      fragCount := r.fragCount + 1, expected := n + 1, age := 0 }
    (f.frag.kind = .middle ∨ f.frag.kind = .last → n + 1 = r.expected → went = posted .duplicate n) ∧
    (f.frag.kind = .middle ∨ f.frag.kind = .last → n + 1 < r.expected → went = posted .stale (r.expected * 256 + n)) ∧
    (r.expected ≤ n → s.appendFails i p.length = none →
      (f.frag.kind = .middle → n ≠ 255 → (went.stream i).state = .assembling ∧ (went.stream i).record = next ∧
        went.queue = s.queue ∧ went.pool = (s.appendStore i p).pool ∧ went.freeList = (s.appendStore i p).freeList) ∧
      (f.frag.kind = .middle → n = 255 → ∃ u : State, went = u.handOver (entry next .length) ∧ u.queue = s.queue ∧
        (u.stream i).state = .discarding ∧ u.pool = (s.appendStore i p).pool ∧
        u.freeList = (s.appendStore i p).freeList) ∧
      (f.frag.kind = .last → ∃ u : State, went = u.handOver (entry next .complete) ∧ u.queue = s.queue ∧
        (u.stream i).state = .idle ∧ (u.stream i).record = InProgress.idle ∧ u.pool = (s.appendStore i p).pool ∧
        u.freeList = (s.appendStore i p).freeList)) ∧
    (∀ how, r.expected ≤ n → s.appendFails i p.length = some how →
      (f.frag.kind = .middle → ∃ u : State, went = (u.handOver (entry r how)).dropFragment i ∧ u.queue = s.queue ∧
        (u.stream i).state = .discarding ∧ u.pool = s.pool ∧ u.freeList = s.freeList) ∧
      (f.frag.kind = .last → ∃ u : State, went = (u.handOver (entry r how)).dropFragment i ∧ u.queue = s.queue ∧
        (u.stream i).state = .idle ∧ u.pool = s.pool ∧ u.freeList = s.freeList)) ∧
    (f.frag.kind = .first ∨ f.frag.kind = .only → ∃ u : State, went = (u.handOver (entry r .restarted)).takeByState f ∧
      u = s.setStream i { s.stream i with state := .idle, record := InProgress.idle })) ∧
  (∀ (s : State) (f : RecFragment) (i : Nat), f.stream = i → i < 512 → (s.stream i).state = .discarding →
    let idled := s.setStream i { s.stream i with state := .idle, record := InProgress.idle }
    let dropped := satInc 255 (s.stream i).drops
    (f.frag.kind = .middle → (s.takeByState f).stream i = { s.stream i with drops := dropped } ∧
      (s.takeByState f).anomalies = s.anomalies ∧ (s.takeByState f).queue = s.queue ∧
      (s.takeByState f).freeList = s.freeList) ∧
    (f.frag.kind = .last → (s.takeByState f).stream i =
        { s.stream i with state := .idle, record := InProgress.idle, drops := dropped } ∧
      (s.takeByState f).anomalies = s.anomalies ∧ (s.takeByState f).queue = s.queue ∧
      (s.takeByState f).freeList = s.freeList) ∧
    (f.frag.kind = .first ∨ f.frag.kind = .only → s.takeByState f = idled.takeByState f) ∧
    s.sweepTest i = s)

/-- An append that passes its two tests stores the payload at the end of the record: every earlier payload byte is kept,
byte j of the payload stands at its place in the chain, at most one block leaves the head of the free list for the tail of
the chain, no block outside the chain changes, and nothing else changes. The two tests of an append that needs a new block:
the stream's block limit (LENGTH), then the pool, which keeps the reserve for class 0 (POOL). -/
def Obligations.AppendTestsAndStoresPayload : Prop :=
  (∀ (s : State) (i : Nat) (payload : List Byte) (r : InProgress), i < 512 → (s.stream i).record = r →
    payload.length ≤ 256 → r.chain.length = (r.bytes + 255) / 256 → r.chain.Nodup →
    (∀ b ∈ s.freeList.head?, b ∉ r.chain) → s.appendFails i payload.length = none →
    let t := s.appendStore i payload
    let room := r.chain.length * 256 - r.bytes
    let chain := if payload.length ≤ room then r.chain else r.chain ++ s.freeList.take 1
    (t.stream i).record = { r with bytes := r.bytes + payload.length, chain := chain } ∧
    chain.length = (r.bytes + payload.length + 255) / 256 ∧
    t.freeList = (if payload.length ≤ room then s.freeList else s.freeList.drop 1) ∧
    (∀ k, k < r.bytes → t.chainByte chain k = s.chainByte r.chain k) ∧
    (∀ j, j < payload.length → t.chainByte chain (r.bytes + j) = payload.getD j 0) ∧
    (∀ b o, o < 256 → b ∉ chain → t.poolByte (b * 256 + o) = s.poolByte (b * 256 + o)) ∧
    { t with pool := s.pool, freeList := s.freeList, streams := s.streams } = s ∧
    ∀ j, j ≠ i → t.stream j = s.stream j) ∧
  (∀ (s : State) (i n : Nat) (r : InProgress), (s.stream i).record = r → r.chain.length = (r.bytes + 255) / 256 →
    let room := r.chain.length * 256 - r.bytes
    let limit := (s.stream i).settings.active.blockLimit
    let free := s.freeList.length
    (n ≤ room → s.appendFails i n = none) ∧
    (room < n → limit ≤ r.chain.length → s.appendFails i n = some .length) ∧
    (room < n → r.chain.length < limit → r.cls = 0 → (s.appendFails i n = some .pool ↔ free = 0) ∧
      (s.appendFails i n = none ↔ 1 ≤ free)) ∧
    (room < n → r.chain.length < limit → r.cls ≠ 0 → (s.appendFails i n = some .pool ↔ free ≤ s.poolReserve.active) ∧
      (s.appendFails i n = none ↔ s.poolReserve.active < free)))

/-- SWEEP_TIMER_EXPIRY. The stream at the cursor is tested: an ASSEMBLING one whose age equals the limit is closed TRUNCATED
(AGED) with AGED_OUT posted, after what its hand-over to a full queue posts (log 15), an ASSEMBLING one with another age ages
by one (an age above the limit ages on, log 39), and another is left alone; the cursor advances in its range, the timer
starts again with the interval in force, and the port settles its claims. A stopped timer does not expire (log 2). -/
def Obligations.SweepTestsStreamAtCursor : Prop :=
  ∀ (s : State) (i : Nat) (st : Stream), s.cursor = i → s.stream i = st → i < 512 →
    let a := s.aging.active
    let after := if i < a.last then i + 1 else a.first
    let again := if duration a.interval = 0 then none else some (duration a.interval * 100)
    let r := st.record
    (s.sweepTimer = none → exec .sweepTimerExpiry s = .next s) ∧
    (∀ left, s.sweepTimer = some left → s.examDue = false →
      (st.state ≠ .assembling → exec .sweepTimerExpiry s = .next
        ({ s with cursor := after, sweepTimer := again } : State).settlePort) ∧
      (st.state = .assembling → r.age ≠ a.limit → exec .sweepTimerExpiry s = .next
        ({ s.setStream i { st with record := { r with age := r.age + 1 } } with
          cursor := after, sweepTimer := again } : State).settlePort)) ∧
    (∀ left, s.sweepTimer = some left → st.state = .assembling → r.age = a.limit →
      exec .sweepTimerExpiry s = .next { ((s.setStream i { st with state := .idle, record := InProgress.idle }).handOver
        ⟨⟨.dump, r.cls, r.source, i, .aged, r.firstLane, r.gap, r.missing, r.fragCount, r.bytes, r.firstTick, s.tick⟩,
          r.chain, []⟩).post ⟨.agedOut, some r.firstLane, some r.source, some i, s.tick, r.bytes⟩ with
        cursor := after, sweepTimer := again }.finish)

/-! ## The commit queue -/

/-- A record offered to the commit queue. With a free place it enters after every entry of equal or smaller class number and
before every larger one, the order by class is kept, the writer has an occasion to examine the queue, and nothing else
changes but the count of records offered. With the queue full and a larger class queued, the newest entry of the largest
class is evicted: its chain returns to the free list, EVICTED is posted, and the record enters at its place; otherwise the
record itself is dropped with QUEUE_FULL and the queue is unchanged. A lost DUMP is counted by the tally. A record handed over
by reassembly is counted by its completion, COMPLETE with the GAP flag a second time, and then offered. -/
def Obligations.OfferedRecordEntersOrIsLost : Prop :=
  (∀ (s : State) (e : QEntry), s.queue.Pairwise (fun a b => a.info.cls ≤ b.info.cls) → s.queue.length < 128 →
     s.offer e = { s with
       queue := s.queue.filter (fun x => decide (x.info.cls ≤ e.info.cls)) ++ [e]
         ++ s.queue.filter (fun x => decide (e.info.cls < x.info.cls))
       commit := { s.commit with offered := satInc max32 s.commit.offered }
       examDue := true } ∧
     (s.offer e).queue.Pairwise (fun a b => a.info.cls ≤ b.info.cls) ∧ (s.offer e).queue.length = s.queue.length + 1) ∧
  (∀ (s : State) (e : QEntry) (older : List QEntry) (last : QEntry), s.queue = older ++ [last] → s.queue.length = 128 →
     s.queue.Pairwise (fun a b => a.info.cls ≤ b.info.cls) →
     let entry (x : QEntry) (kind : AnomalyKind) : Anomaly := ⟨kind, some x.info.lane, some x.info.source,
       some x.info.stream, s.tick, x.info.cls * 16777216 + x.info.payloadLen⟩
     let lost (x : QEntry) : Nat :=
       if x.info.kind = .dump then satInc max16 s.epoch.tally.lost else s.epoch.tally.lost
     let t := s.offer e
     let c : CommitCounters := { s.commit with offered := satInc max32 s.commit.offered }
     (∀ x ∈ s.queue, x.info.cls ≤ last.info.cls) ∧ t.queue.length = 128 ∧ t.streams = s.streams ∧ t.pool = s.pool ∧
     (e.info.cls < last.info.cls →
       t.queue = older.filter (fun x => decide (x.info.cls ≤ e.info.cls)) ++ [e]
         ++ older.filter (fun x => decide (e.info.cls < x.info.cls)) ∧
       t.freeList = s.freeList ++ last.chain ∧ t.anomalies = (s.post (entry last .evicted)).anomalies ∧
       t.commit = { c with evicted := satInc max16 s.commit.evicted } ∧
       t.epoch = { s.epoch with tally := { s.epoch.tally with lost := lost last } }) ∧
     (last.info.cls ≤ e.info.cls →
       t.queue = s.queue ∧ t.freeList = s.freeList ++ e.chain ∧ t.anomalies = (s.post (entry e .queueFull)).anomalies ∧
       t.commit = { c with queueFull := satInc max16 s.commit.queueFull } ∧
       t.epoch = { s.epoch with tally := { s.epoch.tally with lost := lost e } })) ∧
  (∀ (s : State) (e : QEntry),
    let c := s.reassembly
    let counted (c : ReassemblyCounters) : State := { s with reassembly := c }
    s.handOver e = State.offer (match e.info.completion, e.info.gap with
      | .complete, true => counted { c with
          complete := satInc max32 c.complete, completeGap := satInc max32 c.completeGap }
      | .complete, false => counted { c with complete := satInc max32 c.complete }
      | .restarted, _ => counted { c with restarted := satInc max32 c.restarted }
      | .length, _ => counted { c with length := satInc max32 c.length }
      | .pool, _ => counted { c with pool := satInc max32 c.pool }
      | .aged, _ => counted { c with aged := satInc max32 c.aged }
      | .flushed, _ => counted { c with flushed := satInc max32 c.flushed }) e)

/-! ## The writer and the flash -/

/-- One examination of the queue. Not in SELECTING nothing is examined. The space test of a record of n pages: EXHAUSTED or a
dropped OPEN_MARK refuses it; it fits in the erased run, less the close reserve for a DUMP or a HISTORY; in MAIN it waits for
erasable space; else it is refused. The scan runs from the head: a record that waits ends it, a refused one is dropped with
STORE_FULL, one that fits is taken in MAIN, when it is the OPEN_MARK, or when the budget says yes; otherwise the refusal is
counted and a DUMP is passed over, another kind dropped with BUDGET. So in HOLDUP a record behind DUMPs that the budget
refuses is taken, and those keep their places. An admitted record becomes the record in flight, its pages committed, its
first operation claimed, its admission tick noted. Where nothing was taken the STORE_FULL report and then the exhaustion
report are made (in that order, log 15), each once per epoch, and CLOSING is entered in FLUSH with the streams closed, also
in an examination that has made a report (log 15). -/
def Obligations.WriterExaminesQueue : Prop :=
  (∀ (s : State) (i : RecInfo),
    let n := pageCount s.store.tail i.payloadLen
    let kept := if i.kind = .dump ∨ i.kind = .history then s.epoch.settings.closeReserve else 0
    (s.store.exhausted = true ∨ s.writer.openMarkDropped = true → s.spaceTest i = .refused) ∧
    (s.store.exhausted = false → s.writer.openMarkDropped = false →
      (n + kept ≤ s.store.erasedRun → s.spaceTest i = .fits) ∧
      (s.store.erasedRun < n + kept → s.monitor.power = .main → n + kept ≤ s.store.erasedRun + s.erasable →
        s.spaceTest i = .waits) ∧
      (s.store.erasedRun < n + kept → s.monitor.power = .holdup ∨ s.store.erasedRun + s.erasable < n + kept →
        s.spaceTest i = .refused))) ∧
  (∀ (s : State) (e : QEntry),
    let n := pageCount s.store.tail e.info.payloadLen
    let lost := if e.info.kind = .dump then satInc max16 s.epoch.tally.lost else s.epoch.tally.lost
    let anomaly (kind : AnomalyKind) : Anomaly :=
      ⟨kind, none, none, if e.info.kind = .dump then some e.info.stream else none, s.tick, n⟩
    let dropped (kind : AnomalyKind) : State := { s.post (anomaly kind) with
      freeList := s.freeList ++ e.chain, epoch := { s.epoch with tally := { s.epoch.tally with lost := lost } } }
    s.dropStoreFull e = { dropped .storeFull with
      commit := { s.commit with storeFull := satInc max16 s.commit.storeFull }
      writer := { s.writer with openMarkDropped := s.writer.openMarkDropped || decide (e.info.kind = .openMark) } } ∧
    s.dropBudget e = { dropped .budget with commit := { s.commit with budget := satInc max16 s.commit.budget } }) ∧
  (∀ (s : State) (e : QEntry) (state : WriterState),
    let n := pageCount s.store.tail e.info.payloadLen
    let info := if e.info.kind = .dump then e.info else { e.info with firstTick := s.tick, doneTick := s.tick }
    let seed := s.store.lastCheck
    let f : InFlight := ⟨info, e.chain, 0, e.payload, n, 0, none, 0, seed, seed % 65536 % 65535, seed / 65536 % 65536 % 65535,
      s.tick⟩
    let admitted : State := { s with
      writer := { s.writer with state := state, inFlight := some f }
      budget := { s.budget with outstanding := s.budget.outstanding + n } }
    s.beginRecord e state = { admitted with port := { s.port with waitWriter := some (admitted.writerOp f) } }) ∧
  (∀ (s : State) (kept : List QEntry) (e : QEntry) (rest : List QEntry),
    let n := pageCount s.store.tail e.info.payloadLen
    let taken := s.monitor.power = .main ∨ e.info.kind = .openMark ∨ s.budget.answer e.info.cls n = true
    let refused : State := { s with
      powerCounters := { s.powerCounters with refusals := satInc max32 s.powerCounters.refusals } }
    scanQueue kept [] s = (.nothing, { s with queue := kept }) ∧
    (s.spaceTest e.info = .waits → scanQueue kept (e :: rest) s = (.waits, { s with queue := kept ++ e :: rest })) ∧
    (s.spaceTest e.info = .refused → scanQueue kept (e :: rest) s = scanQueue kept rest (s.dropStoreFull e)) ∧
    (s.spaceTest e.info = .fits →
      (taken → scanQueue kept (e :: rest) s =
        (.taken, ({ s with queue := kept ++ rest } : State).beginRecord e .programming)) ∧
      (¬ taken → e.info.kind = .dump → scanQueue kept (e :: rest) s = scanQueue (kept ++ [e]) rest refused) ∧
      (¬ taken → e.info.kind ≠ .dump → scanQueue kept (e :: rest) s = scanQueue kept rest (refused.dropBudget e)))) ∧
  (∀ (s : State) (front : List QEntry) (e : QEntry) (rest : List QEntry), s.writer.state = .selecting →
    s.queue = front ++ e :: rest → s.powerCounters.refusals + front.length ≤ 4294967295 →
    (∀ x ∈ front, x.info.kind = .dump ∧ s.spaceTest x.info = .fits ∧ s.monitor.power = .holdup ∧
      s.budget.answer x.info.cls (pageCount s.store.tail x.info.payloadLen) = false) →
    s.spaceTest e.info = .fits →
    s.monitor.power = .main ∨ e.info.kind = .openMark ∨
      s.budget.answer e.info.cls (pageCount s.store.tail e.info.payloadLen) = true →
    s.examineOnce = ({ s with
      examDue := false, queue := front ++ rest
      powerCounters := { s.powerCounters with refusals := s.powerCounters.refusals + front.length } } : State).beginRecord
        e .programming) ∧
  (∀ s : State,
    let open_ := s.epoch.state = .capture ∨ s.epoch.state = .flush
    let scanned := scanQueue [] s.queue { s with examDue := false }
    let reported := (if scanned.2.writer.openMarkDropped then scanned.2.reportStoreFull else scanned.2).reportExhaustion
    (s.writer.state ≠ .selecting → s.examineOnce = { s with examDue := false }) ∧
    (s.writer.state = .selecting → scanned.1 ≠ .nothing → s.examineOnce = scanned.2) ∧
    (s.writer.state = .selecting → scanned.1 = .nothing →
      (reported.examDue = false ∧ reported.epoch.state = .flush ∧ reported.epoch.streamsClosed = true →
        s.examineOnce = reported.enterClosing) ∧
      (reported.examDue = true ∨ reported.epoch.state ≠ .flush ∨ reported.epoch.streamsClosed = false →
        s.examineOnce = reported)) ∧
    (let made : State := { s with epoch := { s.epoch with storeFullTaken := true } }
     (s.epoch.storeFullTaken = true ∨ ¬ open_ → s.reportStoreFull = s) ∧
     (s.epoch.storeFullTaken = false → s.epoch.state = .capture → s.reportStoreFull = made.enterFlush .storeFull 0) ∧
     (s.epoch.storeFullTaken = false → s.epoch.state = .flush → s.reportStoreFull = made.closeStreams)) ∧
    (let due := s.monitor.power = .holdup ∧ open_ ∧ s.budget.available < s.budget.settings.pageCost ∧
       s.budget.exhaustionMade = false
     let made : State := { s with
       budget := { s.budget with exhaustionMade := true }
       powerCounters := { s.powerCounters with exhaustions := satInc max16 s.powerCounters.exhaustions } }
     (¬ due → s.reportExhaustion = s) ∧
     (due → s.epoch.state = .capture → s.reportExhaustion = made.enterFlush .exhausted 0) ∧
     (due → s.epoch.state = .flush → s.reportExhaustion = made.closeStreams)))

/-- PAGE_PROGRAM_COMPLETE of the writer. The programmed bytes stand in the flash (log 33) and no other byte has changed; the
tail moves to the next page, sector 1 following sector 511; the erased run and the outstanding pages fall by one and the
pages programmed rise. A frame page takes the running check over its payload bytes and returns each block whose last payload
byte is programmed, and the header, where its page is its sector's first-record page, fills in the directory's first-record
sequence; a mark page makes its sector in use with the sector sequence programmed (log 46) and its first-record page, that
sequence none as yet; no other entry changes. With no service claim waiting, the writer's next operation is granted at once: a mark before page 0 of a sector, the
next frame page, or the state byte. A run come to the close reserve is reported once per epoch: from CAPTURE the epoch enters
FLUSH with cause STORE_FULL and its streams closed, in FLUSH the streams are closed. The frame pages are the header, the
payload and the trailer laid end to end, and the check is the dual sum from the seed. -/
def Obligations.PageProgramAdvancesTail : Prop :=
  (∀ (s : State) (f : InFlight) (data : List Byte) (limit : Option Nat),
    s.port.inFlight = some ⟨⟨.pageProgram, s.store.tail, data⟩, .writer, limit⟩ → s.store.tail < 131072 →
    s.writer.inFlight = some f → s.examDue = false → s.recovering = false → s.port.waitService = none →
    f.chain = [] ∨ f.chain.length = (f.info.payloadLen + 255) / 256 →
    s.epoch.settings.closeReserve < s.store.erasedRun - 1 ∨ s.writer.state ≠ .selecting →
    let tail := s.store.tail
    let next := if tail = 131071 then 256 else tail + 1
    let pages := (48 + f.info.payloadLen + 255) / 256
    let back := ((List.range f.chain.length).filter fun b =>
      decide (40 + min (256 * b + 256) f.info.payloadLen ≤ 256 * (f.done + 1))).length
    let sum := sumBytes (f.sumA, f.sumB) (s.pagePayload f f.done)
    let g : InFlight := { f with
      done := f.done + 1, returned := back, sumA := sum.1, sumB := sum.2
      start := if f.done = 0 then some tail else f.start
      seq := if f.done = 0 then s.store.lastSeq + 1 else f.seq }
    let first (left : Nat) : Nat := if 1 + left ≤ 255 then 1 + left else 0
    let granted (op : FlashOp) : Option OpInFlight := some ⟨op, .writer, some 5000⟩
    let room := s.epoch.settings.closeReserve < s.store.erasedRun - 1
    ∃ t, exec (.pageProgramComplete true) s = .next t ∧
      (∀ a, t.flashByte a = if tail * 256 ≤ a ∧ a < tail * 256 + data.length then data.getD (a - tail * 256) 0
        else s.flashByte a) ∧
      t.commit.pages = satInc max32 s.commit.pages ∧ t.commit.written = s.commit.written ∧
      t.budget = { s.budget with outstanding := s.budget.outstanding - 1 } ∧ t.pool = s.pool ∧
      (room ∨ s.epoch.storeFullTaken = true ∨ s.epoch.state = .watch ∨ s.epoch.state = .closed →
        t.commit = { s.commit with pages := satInc max32 s.commit.pages } ∧
        t.queue = s.queue ∧ t.link = s.link ∧ t.history = s.history ∧ t.anomalies = s.anomalies ∧ t.epoch = s.epoch ∧
        t.streams = s.streams ∧ t.store.low = t.lowNow ∧
        (tail % 256 ≠ 0 → t.freeList = s.freeList ++ (f.chain.take back).drop f.returned) ∧
        (tail % 256 = 0 → t.freeList = s.freeList)) ∧
      (¬ room → s.epoch.storeFullTaken = false →
        (s.epoch.state = .capture → s.epoch.streamsClosed = false →
          t.epoch = { s.epoch with
            state := .flush, flushCause := .storeFull, flushTick := s.tick, windowTimer := none, quietTimer := none
            graceTimer := none, streamsClosed := true, storeFullTaken := true, tally := t.epoch.tally } ∧
          t.history = s.history.place s.tick (.part .epoch) 0x0202 [7, 0] ∧
          ∀ i, i < 512 → (t.stream i).state = .idle ∨ (t.stream i).state = .barred) ∧
        (s.epoch.state = .flush → t.history = s.history ∧ t.epoch = { s.epoch with
          graceTimer := if s.epoch.streamsClosed then s.epoch.graceTimer else none
          streamsClosed := true, storeFullTaken := true, tally := t.epoch.tally })) ∧
      (tail % 256 ≠ 0 →
        t.store = { s.store with tail := next, erasedRun := s.store.erasedRun - 1, low := t.store.low } ∧
        t.writer = { s.writer with inFlight := some g } ∧
        (∀ m, f.done = 0 → s.dir (tail / 256) = .inUse m none → m.firstRecord = tail % 256 →
          t.dir (tail / 256) = .inUse m (some (s.store.lastSeq + 1))) ∧
        (∀ n, (∀ m, f.done = 0 → n = tail / 256 → s.dir n = .inUse m none → m.firstRecord ≠ tail % 256) →
          t.dir n = s.dir n) ∧
        (pages ≤ g.done → t.port.inFlight = granted ⟨.stateByte, g.start.getD 0, [0x3F]⟩) ∧
        (g.done < pages → next % 256 ≠ 0 →
          t.port.inFlight = granted ⟨.pageProgram, next, t.framePage g g.done (s.store.lastSeq + 1)⟩) ∧
        (g.done < pages → next % 256 = 0 → s.store.lastSectorSeq < 4294967295 →
          t.port.inFlight = granted ⟨.pageProgram, next,
            (⟨s.store.lastSectorSeq + 1, s.epoch.number, first (pages - g.done)⟩ : Mark).bytes⟩)) ∧
      (∀ n, tail % 256 = 0 → (data.drop 1).take 4 = le 4 n → n < 4294967296 →
        t.writer = s.writer ∧
        t.dir (tail / 256) = .inUse ⟨n, s.epoch.number,
          first (if f.done = 0 then 0 else pages - f.done)⟩ none ∧
        (∀ k, k ≠ tail / 256 → t.dir k = s.dir k) ∧
        t.store = { s.store with
          tail := next, erasedRun := s.store.erasedRun - 1, lastSectorSeq := n,
          low := t.store.low, exhausted := t.store.exhausted } ∧
        (t.store.exhausted = true ↔ s.store.exhausted = true ∨ 4294967295 ≤ s.store.lastSeq ∨
          4294967295 ≤ n) ∧
        (f.done < pages →
          t.port.inFlight = granted ⟨.pageProgram, next, t.framePage f f.done (s.store.lastSeq + 1)⟩))) ∧
  (∀ (s : State) (f : InFlight) (p seq : Nat) (payload : List Byte),
    payload = (match f.info.kind with
      | .dump => (List.range f.info.payloadLen).map (s.chainByte f.chain)
      | .history => historyPayload s.history.ring
      | _ => f.payload) → payload.length = f.info.payloadLen →
    (f.sumA, f.sumB) = sumBytes (sumSeed f.seed) (payload.take (256 * p - 40)) →
    s.framePage f p seq = ((headerBytes 0x7F f.info seq s.epoch.number f.seed ++ payload
      ++ le 4 (payloadCheck f.seed payload) ++ le 4 f.info.payloadLen).drop (256 * p)).take 256 ∧
    sumBytes (f.sumA, f.sumB) (s.pagePayload f p) = sumBytes (sumSeed f.seed) (payload.take (256 * (p + 1) - 40))) ∧
  (∀ (seed a b : Nat) (x y : Byte) (rest : List Byte),
    let word (w : Nat) : Nat × Nat := ((a + w) % 65535, (b + (a + w) % 65535) % 65535)
    sumSeed seed = (seed % 65536 % 65535, seed / 65536 % 65536 % 65535) ∧ sumBytes (a, b) [] = (a, b) ∧
    sumBytes (a, b) [x] = word x.toNat ∧ sumBytes (a, b) (x :: y :: rest) = sumBytes (word (x.toNat + 256 * y.toNat)) rest ∧
    payloadCheck seed [] = seed ∧ payloadCheck seed (x :: rest) =
      (sumBytes (sumSeed seed) (x :: rest)).2 * 65536 + (sumBytes (sumSeed seed) (x :: rest)).1)

/-- STATE_BYTE_PROGRAM_COMPLETE of the writer: the record turns VALID. Its state byte alone has changed in the flash (log
33); last sequence, last check and last epoch become the record's, it becomes the oldest when there was none, it joins the
records present (the model's own list, log 47), it is counted, nothing is in flight, and a parked RECORD wait that it satisfies is answered. The port is granted to a claim that waits (log
15); then the writer goes on from every state of the part: in PROGRAMMING it returns to SELECTING, which is an occasion to
examine the queue, and in CLOSING it takes the next close write, or closes the epoch after the last. What a change closes
with: each occasion it has made is one examination, taken after it, and then the port is settled; with no occasion it only
settles the port. (The first clause is the whole outcome in MAIN, in CAPTURE, with nothing queued and no WAIT parked.) -/
def Obligations.StateByteMakesRecordValid : Prop :=
  (∀ (s : State) (f : InFlight) (page : Nat) (limit : Option Nat),
     s.port.inFlight = some ⟨⟨.stateByte, page, [0x3F]⟩, .writer, limit⟩ → page < 131072 → s.writer.inFlight = some f →
     s.writer.state = .programming → s.writer.openMarkDropped = false → s.queue = [] → s.monitor.power = .main →
     s.epoch.state = .capture → s.link.parked = none →
     ∃ t, exec (.stateByteProgramComplete true) s = .next t ∧
       (∀ a, t.flashByte a = if a = page * 256 then 0x3F else s.flashByte a) ∧
       t.store = { s.store with
         lastSeq := f.seq
         lastCheck := if f.info.payloadLen = 0 then f.seed else f.sumB * 65536 + f.sumA
         lastEpoch := s.epoch.number
         oldest := if s.store.oldest = none then some (f.seq, f.start.getD 0) else s.store.oldest
         records := s.store.records ++ [(⟨f.seq, f.start.getD 0, f.info.payloadLen⟩ : LogRecord)]
         exhausted := t.store.exhausted } ∧
       (t.store.exhausted = true ↔ s.store.exhausted = true ∨ 4294967295 ≤ f.seq ∨ 4294967295 ≤ s.store.lastSectorSeq) ∧
       t.writer = { s.writer with
         state := .selecting, inFlight := none
         openMarkSeq := if f.info.kind = .openMark then some f.seq else s.writer.openMarkSeq } ∧
       t.commit = { s.commit with written := satInc max32 s.commit.written } ∧
       t.epoch = { s.epoch with tally := { s.epoch.tally with
         written := if f.info.kind = .dump then satInc max16 s.epoch.tally.written else s.epoch.tally.written
         history := s.epoch.tally.history || decide (f.info.kind = .history) } } ∧
       t.queue = [] ∧ t.freeList = s.freeList ∧ t.history = s.history ∧ t.anomalies = s.anomalies ∧ t.link = s.link ∧
       t.pool = s.pool) ∧
  (∀ (s : State) (f : InFlight) (page : Nat) (limit : Option Nat),
    s.port.inFlight = some ⟨⟨.stateByte, page, [0x3F]⟩, .writer, limit⟩ → page < 131072 → s.writer.inFlight = some f →
    ∃ m : State, (∀ a, m.flashByte a = if a = page * 256 then 0x3F else s.flashByte a) ∧
      (m.store.exhausted = true ↔ s.store.exhausted = true ∨ 4294967295 ≤ f.seq ∨ 4294967295 ≤ s.store.lastSectorSeq) ∧
      m = { s with
        flash := m.flash, port := { s.port with inFlight := none }
        store := { s.store with
          lastSeq := f.seq
          lastCheck := if f.info.payloadLen = 0 then f.seed else f.sumB * 65536 + f.sumA
          lastEpoch := s.epoch.number
          oldest := if s.store.oldest = none then some (f.seq, f.start.getD 0) else s.store.oldest
          records := s.store.records ++ [(⟨f.seq, f.start.getD 0, f.info.payloadLen⟩ : LogRecord)]
          exhausted := m.store.exhausted }
        writer := { s.writer with
          inFlight := none, openMarkSeq := if f.info.kind = .openMark then some f.seq else s.writer.openMarkSeq }
        commit := { s.commit with written := satInc max32 s.commit.written }
        epoch := { s.epoch with tally := { s.epoch.tally with
          written := if f.info.kind = .dump then satInc max16 s.epoch.tally.written else s.epoch.tally.written
          history := s.epoch.tally.history || decide (f.info.kind = .history) } } } ∧
      (let settled := m.tellRecord.settlePort
       let got := exec (.stateByteProgramComplete true) s
       (s.writer.state = .programming → got = .next ({ settled with
         writer := { m.writer with state := .selecting }, examDue := true } : State).finish) ∧
       (s.writer.state = .closing → got = .next (State.nextClose s.writer.toClose settled).finish))) ∧
  (∀ s : State, (s.examDue = false → s.finish = s.settlePort) ∧ (s.examDue = true → s.finish = s.examineOnce.finish))

/-- The flash port's arbiter and background erase's claim, wherever a change settles the port. Settling changes the port
alone. The erase claim is brought up to date first: outside a FORMAT, recovery, FAULT and an erase in flight it is for the
candidate, and it is withdrawn where there is none. The candidate, in MAIN, is the sector at the end of the erased run when
it is eligible; a sector is eligible when it is not the tail's, holds no byte of the record in flight, and is damaged, or in
use with every page before the first page of the oldest record (before the tail when oldest is none). With the port free and
recovery over, one claim is granted: in MAIN the writer and the service link take turns by the last grant, one of them that
waits alone is granted, and background erase when neither waits, which leaves the last grant; in HOLDUP the writer alone (its
grant is recorded, log 16). Erasable space counts the eligible sectors from the end of the run on, 0 in HOLDUP, and LOW is
set in a FORMAT and while the run and it are below the arm minimum. The order of claim and grant against the examination is
log 15. -/
def Obligations.ArbiterGrantsOneClaim : Prop :=
  (∀ (s : State) (claim : Option FlashOp),
    let t := s.settlePort
    let blocked := (∃ rest ended, s.link.server = .working (.format rest) ended) ∨ s.recovering = true ∨
      s.port.fault = true ∨ ∃ x, s.port.inFlight = some x ∧ x.claimant = .background
    let p : Port := { s.port with waitErase := claim }
    let granted (op : FlashOp) (who : Claimant) : Option OpInFlight :=
      some ⟨op, who, match op.kind with | .pageRead => none | .erase => some 3000000 | _ => some 5000⟩
    let writer (op : FlashOp) : Port := { p with inFlight := granted op .writer, waitWriter := none, lastService := false }
    let service (op : FlashOp) : Port := { p with inFlight := granted op .service, waitService := none, lastService := true }
    (blocked → claim = none) → (¬ blocked → claim = s.eraseCandidate.map fun n => ⟨.erase, n * 256, []⟩) →
    { t with port := s.port } = s ∧
    (s.port.inFlight ≠ none ∨ s.recovering = true → t.port = p) ∧
    (s.port.inFlight = none → s.recovering = false →
      (s.monitor.power = .main →
        (∀ w v, s.port.waitWriter = some w → s.port.waitService = some v →
          (s.port.lastService = true → t.port = writer w) ∧ (s.port.lastService = false → t.port = service v)) ∧
        (∀ w, s.port.waitWriter = some w → s.port.waitService = none → t.port = writer w) ∧
        (∀ v, s.port.waitWriter = none → s.port.waitService = some v → t.port = service v) ∧
        (s.port.waitWriter = none → s.port.waitService = none →
          (∀ e, claim = some e → t.port = { p with inFlight := granted e .background, waitErase := none }) ∧
          (claim = none → t.port = p))) ∧
      (s.monitor.power = .holdup →
        (∀ w, s.port.waitWriter = some w → t.port = writer w) ∧ (s.port.waitWriter = none → t.port = p)))) ∧
  (∀ s : State,
    let tail := s.store.tail
    let run := s.store.erasedRun
    let whole := 130816 ≤ tail % 256 + run
    let n := s.runEndSector
    (256 ≤ tail → tail < 131072 → (tail + run) % 256 = 0 → (List.range run).foldl (fun p _ => nextPage p) tail = n * 256) ∧
    (s.monitor.power = .holdup ∨ whole → s.eraseCandidate = none ∧ s.erasable = 0) ∧
    (s.monitor.power = .main → ¬ whole →
      (s.eligible n = true → s.eraseCandidate = some n) ∧ (s.eligible n = false → s.eraseCandidate = none) ∧
      ∃ k, k ≤ 511 ∧ s.erasable = 256 * k ∧ (∀ j, j < k → s.eligible ((n - 1 + j) % 511 + 1) = true) ∧
        (k < 511 → s.eligible ((n - 1 + k) % 511 + 1) = false)) ∧
    (∀ m, s.eligible m = true ↔ m ≠ tail / 256 ∧
      (∀ f, s.writer.inFlight = some f →
        let first := f.start.getD tail / 256
        (tail / 256 + 511 - first) % 511 < (m + 511 - first) % 511) ∧
      (s.dir m = .damaged ∨ ∃ k f, s.dir m = .inUse k f ∧
        (∀ q p, s.store.oldest = some (q, p) → ∃ o g, s.dir (p / 256) = .inUse o g ∧ k.seq < o.seq) ∧
        (s.store.oldest = none → tail % 256 ≠ 0 → ∀ o g, s.dir (tail / 256) = .inUse o g → k.seq < o.seq))) ∧
    (s.lowNow = true ↔ (∃ rest ended, s.link.server = .working (.format rest) ended) ∨
      run + s.erasable < s.epoch.settings.closeReserve + 255))

/-- SECTOR_ERASE_COMPLETE of background erase: every byte of the sector reads 0xFF and no other byte has changed, and its
directory entry is blank. The erased run grows by 256 for each blank sector, the erased one among them, that follows it
without a gap, the tail's own sector apart (log 20): by nothing where the sector after it is not blank, or where it takes in
all 511 already. The records that begin in the sector are present no longer (log 47). With no sector in use the last sector
sequence is 0, with no VALID or RELEASED record present the last check is 1, and with no RELEASED one the released prefix end
is none; LOW is re-evaluated; nothing else changes (last sequence and last epoch are kept, log 43). The port, free again,
settles its claims; in SELECTING the growth is an occasion to examine the queue: the service link's claim that waits is
granted first, then the queue is examined, and background erase's next claim comes after (log 15). A VALID or RELEASED record
is present when the state byte of a record of the list reads so (log 47). -/
def Obligations.SectorEraseBlanksSector : Prop :=
  (∀ (s : State) (n : Nat) (limit : Option Nat), 1 ≤ n → n < 512 →
    s.port.inFlight = some ⟨⟨.erase, n * 256, []⟩, .background, limit⟩ →
    ∃ u : State,
      (∀ a, u.flashByte a = if a / 65536 = n then 0xFF else s.flashByte a) ∧
      (∀ m, m < 512 → u.dir m = if m = n then .blank else s.dir m) ∧
      (let on (j : Nat) : Nat := (s.runEndSector - 1 + j) % 511 + 1
       let joins (j : Nat) : Prop := u.dir (on j) = .blank ∧ on j ≠ s.store.tail / 256
       (130816 ≤ s.store.tail % 256 + s.store.erasedRun → u.store.erasedRun = s.store.erasedRun) ∧
       (s.store.tail % 256 + s.store.erasedRun < 130816 → ∃ k, k ≤ 511 ∧
         u.store.erasedRun = s.store.erasedRun + 256 * k ∧ (∀ j, j < k → joins j) ∧ (k < 511 → ¬ joins k)) ∧
       (n = s.runEndSector → n ≠ s.store.tail / 256 → s.store.tail % 256 + s.store.erasedRun < 130816 →
         s.store.erasedRun + 256 ≤ u.store.erasedRun)) ∧
      u.store.low = u.lowNow ∧
      u = { s with
        flash := u.flash, directory := u.directory, port := { s.port with inFlight := none }, examDue := false
        store := { s.store with
          erasedRun := u.store.erasedRun, low := u.store.low
          lastSectorSeq := if u.inUse = [] then 0 else s.store.lastSectorSeq
          lastCheck := if u.keptPresent then s.store.lastCheck else 1
          releasedEnd := if u.releasedPresent then s.store.releasedEnd else none
          records := s.store.records.filter fun r => decide (r.page / 256 ≠ n) } } ∧
      (let got := exec (.sectorEraseComplete true) s
       let port (p : Port) : State := { u with examDue := true, port := { p with waitErase := none } }
       (s.writer.state ≠ .selecting → got = .next u.settlePort) ∧
       (s.port.waitWriter = none → s.port.waitService = none → got = .next (port u.port).finish) ∧
       (∀ op, s.port.waitWriter = none → s.port.waitService = some op → s.monitor.power = .main → s.recovering = false →
         got = .next (port { u.port with
           inFlight := some ⟨op, .service, op.kind.limit⟩, waitService := none, lastService := true }).finish))) ∧
  (∀ s : State,
    let reads (r : LogRecord) : RecState := RecState.read (s.flashByte (r.page * 256))
    (s.keptPresent = true ↔ ∃ r ∈ s.store.records, reads r = .valid ∨ reads r = .released) ∧
    (s.releasedPresent = true ↔ ∃ r ∈ s.store.records, reads r = .released))

/-- PAGE_READ_COMPLETE of each request that reads. READ-RECORD: the bytes of the page in the range asked for join those
gathered; when the range ends in this page the reply OK carries them all, and otherwise the next frame page is claimed. The
lookup of READ-RECORD and VERIFY: an ERASED byte, a failed check, a larger sequence or the tail end it NOT_FOUND, a smaller
sequence steps on by its pages, and the record found is read from its offset on, or verified (BEGUN is REFUSED_STATE): its
first page, that of the header, is read again as a frame page (log 23). LIST-RECORDS: a summary for each header from the
sequence asked for on, SKIPPED for one that fails, and the reply at the count, the tail or an ERASED page. VERIFY: the whole
frame, then the trailer check of the nearest earlier VALID or RELEASED record, found in the model's own list of the records
present (log 24, log 47), and the reply, whose agreement bytes are 1 for agrees and 0 for differs (log 29); with no such
record the reply at once. After MAIN_LOST a request of any of the three that would read further is REFUSED_STATE, and one that
needs no further page is answered as it would have been. The port, free again, settles its claims: in MAIN, with no writer's
claim waiting, the next page is read at once. The flash is not changed. -/
def Obligations.PageReadServesRequests : Prop :=
  (∀ (s : State) (p index offset stop : Nat) (gathered : List Byte) (limit : Option Nat) (ended : Bool) (q : Queued)
     (rest : List Queued), s.port.inFlight = some ⟨⟨.pageRead, p, []⟩, .service, limit⟩ → p < 131072 →
     s.link.server = .working (.readPages p index offset stop gathered) ended → s.link.queue = q :: rest →
     s.examDue = false →
     let lo := offset - 256 * index
     let hi := min (stop - 256 * index) 256
     let all := gathered ++ (List.range (hi - lo)).map fun i => s.flashByte (p * 256 + (lo + i))
     let next := if p = 131071 then 257 else if p % 256 = 255 then p + 2 else p + 1
     let free : Port := { s.port with inFlight := none }
     let claimed : State := { s with
       port := { free with waitService := some ⟨.pageRead, next, []⟩ }
       link := { s.link with server := .working (.readPages next (index + 1) offset stop all) false } }
     (stop ≤ 256 * (index + 1) → exec .pageReadComplete s = .next
       ({ s.replied q.req.kind q.tag .ok all false with port := free } : State).settlePort) ∧
     (256 * (index + 1) < stop → ended = true → exec .pageReadComplete s = .next
       ({ s.replied q.req.kind q.tag .refusedState [] false with port := free } : State).settlePort) ∧
     (256 * (index + 1) < stop → ended = false → exec .pageReadComplete s = .next claimed.settlePort ∧
       (s.port.waitWriter = none → s.recovering = false → s.monitor.power = .main →
         claimed.settlePort.port.inFlight = some ⟨⟨.pageRead, next, []⟩, .service, none⟩))) ∧
  (∀ (s : State) (p : Nat) (limit : Option Nat) (job : Job) (ended : Bool) (q : Queued) (rest : List Queued),
    s.port.inFlight = some ⟨⟨.pageRead, p, []⟩, .service, limit⟩ → p < 131072 →
    s.link.server = .working job ended → s.link.queue = q :: rest → s.examDue = false →
    let page := s.page p
    let tail := s.store.tail
    let free : Port := { s.port with inFlight := none }
    let answers (status : Status) (body : List Byte) : Prop := exec .pageReadComplete s = .next
      ({ s.replied q.req.kind q.tag status body false with port := free } : State).settlePort
    let goesOn (job' : Job) (r : Nat) : Prop := if ended = true then answers .refusedState [] else
      exec .pageReadComplete s = .next ({ s with
        port := { free with waitService := some ⟨.pageRead, r, []⟩ }
        link := { s.link with server := .working job' false } } : State).settlePort
    let stepped (h : Header) : Option Nat :=
      match stepPages ((48 + h.payloadLen + 255) / 256) p (s.inUseAfter (p / 256)) with | .inl x => some x.1 | .inr _ => none
    let skipped := firstRecordPage (s.inUseAfter (p / 256))
    let reported (b : Byte) : Byte := match RecState.read b with
      | .erased => 0xFF | .begun => 0x7F | .valid => 0x3F | .torn => 0x1F | .released => 0x0F
    -- lookup
    (∀ (seq : Nat) (again : Nat → Job), (∃ offset length, ∀ r, again r = .readLookup seq offset length r) ∨
        (∀ r, again r = .verifyLookup seq r) → job = again p →
      (page.headD 0xFF = 0xFF → answers .notFound []) ∧
      (page.headD 0xFF ≠ 0xFF → Header.parse page = none → answers .notFound []) ∧
      ∀ h, page.headD 0xFF ≠ 0xFF → Header.parse page = some h →
        (seq < h.seq → answers .notFound []) ∧
        (h.seq < seq → stepped h = none ∨ stepped h = some tail → answers .notFound []) ∧
        (∀ r, h.seq < seq → stepped h = some r → r ≠ tail → goesOn (again r) r)) ∧
    (∀ seq offset length h, job = .readLookup seq offset length p → page.headD 0xFF ≠ 0xFF →
      Header.parse page = some h → h.seq = seq →
      (48 + h.payloadLen ≤ offset → answers .badArgument []) ∧
      (offset < 48 + h.payloadLen → let r := framePageOn (offset / 256) p
        goesOn (.readPages r (offset / 256) offset (min (offset + length) (48 + h.payloadLen)) []) r)) ∧
    (∀ seq h, job = .verifyLookup seq p → page.headD 0xFF ≠ 0xFF → Header.parse page = some h → h.seq = seq →
      (h.state = 0x7F → answers .refusedState []) ∧
      (h.state ≠ 0x7F → goesOn (.verifyPages p ((48 + h.payloadLen + 255) / 256) []) p)) ∧
    -- listing
    (∀ (fromSeq count : Nat) (prev : Option Nat) (out : List (List Byte)) (skip : Bool) (last : Option Nat),
      job = .list fromSeq count p prev out skip last →
      let reply (out : List (List Byte)) (skip : Bool) (last : Option Nat) (atEnd : Bool) : Prop :=
        (∀ x, last = some x → x < 4294967295) → ∃ body, answers .ok body ∧ body.drop 18 = out.flatten ∧
          Lays (body.take 18) 18 [(0, 4, (s.store.oldest.map Prod.fst).getD 0), (4, 4, s.store.releasedEnd.getD 0),
            (8, 4, s.store.lastSeq), (12, 1, skip.toNat + 2 * atEnd.toNat),
            (13, 4, match last with | some x => x + 1 | none => fromSeq), (17, 1, out.length)]
      let onward (prev : Option Nat) (out : List (List Byte)) (skip : Bool) (last pos : Option Nat) : Prop :=
        (pos = none ∨ pos = some tail → reply out skip last true) ∧
        ∀ r, pos = some r → r ≠ tail → goesOn (.list fromSeq count r prev out skip last) r
      (page.headD 0xFF = 0xFF → reply out skip last true) ∧
      (page.headD 0xFF ≠ 0xFF → (∀ h, Header.parse page = some h → ∃ x, prev = some x ∧ h.seq ≤ x) →
        onward prev out true last skipped) ∧
      ∀ h, s.RecordAt prev p h →
        let summary := reported h.state :: (page.take 40).drop 1
        let out' := if fromSeq ≤ h.seq then out ++ [summary] else out
        let last' := if fromSeq ≤ h.seq then some h.seq else last
        (count ≤ out'.length → reply out' skip last' false) ∧
        (out'.length < count → onward (some h.seq) out' skip last' (stepped h))) ∧
    -- verification
    (let verified (v : Verified) (link : Nat) : Prop := answers .ok (reported v.state :: (le 4 v.computed ++ le 4 v.stored
       ++ [if v.lengthAgrees then 1 else 0] ++ [if v.computed = v.stored then 1 else 0] ++ le 1 link))
     let kept (r : LogRecord) : Prop :=
       RecState.read (s.flashByte (r.page * 256)) = .valid ∨ RecState.read (s.flashByte (r.page * 256)) = .released
     let chain (v : Verified) : Prop :=
       ((∀ r ∈ s.store.records, v.seq ≤ r.seq ∨ ¬ kept r) → verified v 3) ∧
       ∀ front r later, s.store.records = front ++ r :: later → r.seq < v.seq → kept r →
         (∀ x ∈ later, v.seq ≤ x.seq ∨ ¬ kept x) →
         let at_ := 40 + r.payloadLen
         let t := framePageOn (at_ / 256) r.page
         goesOn (.verifyTrailer v t (if at_ % 256 ≤ 252 then 1 else 2) (at_ % 256) []) t
     (∀ left gathered, job = .verifyPages p left gathered →
       let all := gathered ++ page
       let n := fieldOf all 20 4
       let v : Verified := ⟨fieldOf all 4 4, all.headD 0xFF, payloadCheck (fieldOf all 36 4) ((all.drop 40).take n),
         fieldOf all (40 + n) 4, decide (fieldOf all (44 + n) 4 = n), fieldOf all 36 4⟩
       (1 < left → goesOn (.verifyPages (framePageOn 1 p) (left - 1) all) (framePageOn 1 p)) ∧
       (left ≤ 1 → chain v)) ∧
     (∀ v left skip gathered, job = .verifyTrailer v p left skip gathered →
       let all := gathered ++ page
       (1 < left → goesOn (.verifyTrailer v (framePageOn 1 p) (left - 1) skip all) (framePageOn 1 p)) ∧
       (left ≤ 1 → verified v (if fieldOf all skip 4 = v.prevCheck then 1 else 2)))))

/-- What the other operations of the service link do when they complete. A RELEASE mark: the record's state byte is
programmed, the released prefix end is its sequence, oldest becomes the next VALID or TORN record of the records present
(their list is the model's own, log 47, and gives it without a read, log 22): none between is passed over, and it is none only
when no such record is left (last check is kept, log 43); the next mark is claimed, or, past the last, the reply carries the
count and the oldest; after MAIN_LOST it is REFUSED_STATE, also where the mark was the last (log 21, as for the others below).
An erase of FORMAT: the sector is blank, the erased run grows over the blank sectors that follow it (log 20), and the records
that begin in the sector are present no longer; the next sector's erase is claimed; after the last the pointers and the
directory are those of a blank store and the reply is OK; after MAIN_LOST it is REFUSED_STATE and LOW is re-evaluated.
SAVE-CONFIG: the erase of sector 0 claims the first page, each page the next, and the sixth makes the image's sequence current
and is answered with it. -/
def Obligations.ServiceOperationsGoOn : Prop :=
  (∀ (s : State) (p seq upTo marked : Nat) (b : Byte) (limit : Option Nat) (ended : Bool) (q : Queued)
    (rest : List Queued), s.port.inFlight = some ⟨⟨.stateByte, p, [b]⟩, .service, limit⟩ → p < 131072 →
    s.link.server = .working (.release upTo marked) ended → s.link.queue = q :: rest → s.store.oldest = some (seq, p) →
    s.examDue = false →
    ∃ w : State, (∀ a, w.flashByte a = if a = p * 256 then b else s.flashByte a) ∧
      w = { s with
        flash := w.flash, port := { s.port with inFlight := none }
        store := { s.store with oldest := w.oldestAfter seq, releasedEnd := some seq, low := w.lowNow } } ∧
      (let body := le 4 (marked + 1) ++ le 4 ((w.store.oldest.map Prod.fst).getD 0)
       let got := exec (.stateByteProgramComplete true) s
       (ended = true → got = .next (w.replied q.req.kind q.tag .refusedState body false).settlePort) ∧
       (ended = false → (∀ x ∈ w.store.oldest, upTo < x.1) →
         got = .next (w.replied q.req.kind q.tag .ok body false).settlePort) ∧
       (∀ seq' p', ended = false → w.store.oldest = some (seq', p') → seq' ≤ upTo →
         let now := w.flashByte (p' * 256)
         got = .next ({ w with
           port := { w.port with
             waitService := some ⟨.stateByte, p', [if now = 0x3F ∨ now = 0x1F then 0x0F else 0x00]⟩ }
           link := { s.link with server := .working (.release upTo (marked + 1)) false } } : State).settlePort))) ∧
  (∀ (s : State) (seq : Nat),
    let left (r : LogRecord) : Prop := seq < r.seq ∧
      (RecState.read (s.flashByte (r.page * 256)) = .valid ∨ RecState.read (s.flashByte (r.page * 256)) = .torn)
    ((∀ r ∈ s.store.records, ¬ left r) → s.oldestAfter seq = none) ∧
    ∀ front r later, s.store.records = front ++ r :: later → (∀ x ∈ front, ¬ left x) → left r →
      s.oldestAfter seq = some (r.seq, r.page)) ∧
  (∀ (s : State) (n : Nat) (limit : Option Nat) (more : List Nat) (ended : Bool) (q : Queued) (rest : List Queued),
    1 ≤ n → n < 512 → s.port.inFlight = some ⟨⟨.erase, n * 256, []⟩, .service, limit⟩ →
    s.link.server = .working (.format more) ended → s.link.queue = q :: rest → s.writer.state ≠ .selecting →
    ∃ u : State, (∀ a, u.flashByte a = if a / 65536 = n then 0xFF else s.flashByte a) ∧
      (∀ m, m < 512 → u.dir m = if m = n then .blank else s.dir m) ∧
      u = { s with
        flash := u.flash, directory := u.directory, port := { s.port with inFlight := none }, examDue := false
        store := { s.store with
          erasedRun := u.store.erasedRun, low := true
          lastSectorSeq := if u.inUse = [] then 0 else s.store.lastSectorSeq
          lastCheck := if u.keptPresent then s.store.lastCheck else 1
          releasedEnd := if u.releasedPresent then s.store.releasedEnd else none
          records := s.store.records.filter fun r => decide (r.page / 256 ≠ n) } } ∧
      (let on (j : Nat) : Nat := (s.runEndSector - 1 + j) % 511 + 1
       let joins (j : Nat) : Prop := u.dir (on j) = .blank ∧ on j ≠ s.store.tail / 256
       (130816 ≤ s.store.tail % 256 + s.store.erasedRun → u.store.erasedRun = s.store.erasedRun) ∧
       (s.store.tail % 256 + s.store.erasedRun < 130816 → ∃ k, k ≤ 511 ∧
         u.store.erasedRun = s.store.erasedRun + 256 * k ∧ (∀ j, j < k → joins j) ∧ (k < 511 → ¬ joins k))) ∧
      (let got := exec (.sectorEraseComplete true) s
       (ended = true → let r := u.replied q.req.kind q.tag .refusedState [] false
         got = .next ({ r with store := { u.store with low := r.lowNow } } : State).settlePort) ∧
       (∀ m later, ended = false → more = m :: later → got = .next ({ u with
         port := { u.port with waitService := some ⟨.erase, m * 256, []⟩ }
         link := { s.link with server := .working (.format later) false } } : State).settlePort) ∧
       (ended = false → more = [] → ∃ r : State, got = .next r.settlePort ∧ (∀ m, m < 512 → r.dir m = .blank) ∧
         r = { u.replied q.req.kind q.tag .ok [] false with
           directory := r.directory
           store := { s.store with
             tail := 256, erasedRun := 130816, oldest := none, releasedEnd := none, lastSeq := 0, lastCheck := 1
             lastSectorSeq := 0, exhausted := false, low := r.lowNow, records := [] } }))) ∧
  (∀ (s : State) (next : Nat) (image data : List Byte) (limit : Option Nat) (ended erase : Bool) (q : Queued)
    (rest : List Queued), next ≤ 6 → (erase = true → next = 0) →
    s.port.inFlight = some ⟨if erase then ⟨.erase, 0, []⟩ else ⟨.pageProgram, next - 1, data⟩, .service, limit⟩ →
    s.link.server = .working (.save image next) ended → s.link.queue = q :: rest → s.examDue = false →
    ∃ u : State, (∀ a, u.flashByte a = if erase then (if a < 65536 then 0xFF else s.flashByte a)
        else if (next - 1) * 256 ≤ a ∧ a < (next - 1) * 256 + data.length then data.getD (a - (next - 1) * 256) 0
        else s.flashByte a) ∧
      u = { s with
        flash := u.flash, port := { s.port with inFlight := none }
        commit := { s.commit with pages := if erase then s.commit.pages else satInc max32 s.commit.pages } } ∧
      (let got := exec (if erase then .sectorEraseComplete true else .pageProgramComplete true) s
       (ended = true → got = .next (u.replied q.req.kind q.tag .refusedState [] false).settlePort) ∧
       (ended = false → next < 6 → got = .next ({ u with
         port := { u.port with waitService := some ⟨.pageProgram, next, (image.drop (256 * next)).take 256⟩ }
         link := { s.link with server := .working (.save image (next + 1)) false } } : State).settlePort) ∧
       (ended = false → next = 6 → got = .next ({ u.replied q.req.kind q.tag .ok (le 4 (fieldOf image 0 4)) false with
         imageSeq := fieldOf image 0 4, freeIndex := s.freeIndex + 1 } : State).settlePort)))

/-- A flash fault: the flash reports failure of the program or erase in flight, or its time limit expires. The port and the
writer enter FAULT, the fault is counted and posted and WRITER_FAULT made with its data; the record in flight is abandoned
with all its outstanding pages (log 19); each byte that the operation touches has its former value or the value being
programmed (0xFF for an erase) and no other byte has changed (a free value decides, log 3). In WATCH and CLOSED that is all;
an open epoch is closed by force: the timers stop, all streams are closed, every queued record is dropped with FLASH_FAULT,
EPOCH_CLOSED is made as forced, and the pending copies apply. A request whose operation failed ends, and so does one whose
program or erase waits, which is counted; a read goes on waiting. A background erase claim that waits is withdrawn uncounted
(log 48). A request ends REFUSED_STATE: a RELEASE with its count and
the oldest, a FORMAT with LOW re-evaluated. A WAIT that the fault resolves is answered first (log 15). Reports with no
operation in flight, and with no limit running: the late report of an operation that its limit has ended is counted when it
is a failure and changes nothing else; any other report has no effect (the model's choice, log 2). -/
def Obligations.FlashFaultEntersFault : Prop :=
  (∀ (s : State) (x : OpInFlight) (c : Instr) (byLimit : Bool), s.port.inFlight = some x → x.op.page < 131072 →
    (c = .pageProgramComplete false ∧ x.op.kind = .pageProgram ∧ byLimit = false) ∨
      (c = .stateByteProgramComplete false ∧ x.op.kind = .stateByte ∧ byLimit = false) ∨
      (c = .sectorEraseComplete false ∧ x.op.kind = .erase ∧ byLimit = false) ∨
      (c = .flashTimeLimitExpiry ∧ x.op.kind ≠ .pageRead ∧ x.limit ≠ none ∧ byLimit = true) →
    x.claimant ≠ .service → s.port.waitService = none → s.port.fault = false →
    ∃ t, exec c s = .next t ∧ t.port.fault = true ∧ t.port.inFlight = none ∧ t.port.waitWriter = none ∧
      t.port.waitErase = none ∧ t.port.lateReport = (if byLimit then some x.op.kind else none) ∧
      t.writer.state = .fault ∧ t.writer.inFlight = none ∧
      t.commit.flashFaults = satInc max16 s.commit.flashFaults ∧
      (s.writer.inFlight ≠ none → t.commit.abandoned = satInc max16 s.commit.abandoned ∧ t.budget.outstanding = 0) ∧
      (x.op.kind ≠ .erase → ∀ a, t.flashByte a = s.flashByte a ∨
        x.op.page * 256 ≤ a ∧ a < x.op.page * 256 + x.op.data.length ∧
          t.flashByte a = x.op.data.getD (a - x.op.page * 256) 0) ∧
      (x.op.kind = .erase → ∀ a, t.flashByte a = s.flashByte a ∨ a / 65536 = x.op.page / 256 ∧ t.flashByte a = 0xFF) ∧
      (s.epoch.state = .capture ∨ s.epoch.state = .flush → t.epoch.state = .closed ∧ t.queue = []) ∧
      (s.epoch.state = .watch ∨ s.epoch.state = .closed → t.epoch = s.epoch ∧ t.queue = s.queue ∧
        t.anomalies = (s.post ⟨.flashFault, none, none, none, s.tick,
          (match x.op.kind with | .pageProgram => 1 | .stateByte => 2 | .pageRead => 3 | .erase => 4) * 16777216
            + x.op.page⟩).anomalies ∧
        ∃ data, t.history = s.history.place s.tick (.part .writer) 0x0401 data)) ∧
  (∀ (s : State) (x : OpInFlight) (c : Instr) (byLimit : Bool), s.port.inFlight = some x → x.op.page < 131072 →
    (c = .pageProgramComplete false ∧ x.op.kind = .pageProgram ∧ byLimit = false) ∨
      (c = .stateByteProgramComplete false ∧ x.op.kind = .stateByte ∧ byLimit = false) ∨
      (c = .sectorEraseComplete false ∧ x.op.kind = .erase ∧ byLimit = false) ∨
      (c = .flashTimeLimitExpiry ∧ x.op.kind ≠ .pageRead ∧ x.limit ≠ none ∧ byLimit = true) →
    s.port.fault = false →
    let fault := s.enterFault x byLimit
    let code := match x.op.kind with | .pageProgram => 1 | .stateByte => 2 | .pageRead => 3 | .erase => 4
    let posted := s.post ⟨.flashFault, none, none, none, s.tick, code * 16777216 + x.op.page⟩
    let data := le 1 code ++ le 4 x.op.page ++ le 1 byLimit.toNat
      ++ le 1 (match x.claimant with | .writer => 1 | .service => 2 | .background => 3 | .recovery => 4)
    let back := match s.writer.inFlight with | some f => f.chain.drop f.returned | none => []
    exec c s = .next (s.flashFault x byLimit).finish ∧
    (x.claimant ≠ .service → (∀ op, s.port.waitService = some op → op.kind = .pageRead) →
      s.flashFault x byLimit = fault) ∧
    (∀ op, x.claimant ≠ .service → s.port.waitService = some op → op.kind ≠ .pageRead →
      s.flashFault x byLimit = ({ fault with
        port := { fault.port with waitService := none }
        commit := { fault.commit with refusedInFault := satInc max16 fault.commit.refusedInFault } } : State).endRefused) ∧
    (x.claimant = .service → s.port.waitService = none → s.flashFault x byLimit = fault.endRefused) ∧
    ∃ w : State,
      (x.op.kind ≠ .erase → ∀ a, w.flashByte a = s.flashByte a ∨
        x.op.page * 256 ≤ a ∧ a < x.op.page * 256 + x.op.data.length ∧
          w.flashByte a = x.op.data.getD (a - x.op.page * 256) 0) ∧
      (x.op.kind = .erase → ∀ a, w.flashByte a = s.flashByte a ∨ a / 65536 = x.op.page / 256 ∧ w.flashByte a = 0xFF) ∧
      w = { s with
        flash := w.flash, freeIndex := w.freeIndex
        port := { s.port with
          inFlight := none, waitWriter := none, waitErase := none, fault := true
          lateReport := if byLimit then some x.op.kind else none }
        anomalies := posted.anomalies, link := posted.link
        commit := { s.commit with
          flashFaults := satInc max16 s.commit.flashFaults
          abandoned := if s.writer.inFlight = none then s.commit.abandoned else satInc max16 s.commit.abandoned }
        history := s.history.place s.tick (.part .writer) 0x0401 data
        writer := { s.writer with state := .fault, inFlight := none, toClose := [] }
        freeList := s.freeList ++ back
        budget := if s.writer.inFlight = none then s.budget else { s.budget with outstanding := 0 } } ∧
      fault = w.forceClose) ∧
  (∀ (s : State) (e : QEntry),
    let stopped : State := { s with
      epoch := { s.epoch with windowTimer := none, quietTimer := none, graceTimer := none } }
    let shut := stopped.closeStreams
    let emptied := shut.queue.foldl State.dropFault { shut with queue := [] }
    let closed := emptied.history.place emptied.tick (.part .epoch) 0x0203
      (le 2 emptied.epoch.number ++ le 1 emptied.epoch.flushCause.code ++ [1])
    (s.epoch.state = .watch ∨ s.epoch.state = .closed → s.forceClose = s) ∧
    (s.epoch.state = .capture ∨ s.epoch.state = .flush →
      s.forceClose = emptied.enterClosed true ∧ s.forceClose.epoch.state = .closed ∧ s.forceClose.queue = [] ∧
      s.forceClose.epoch.flushCause = s.epoch.flushCause ∧
      s.forceClose.history = if emptied.pendingCount = 0 then closed
        else closed.place emptied.tick (.part .epoch) 0x0204 (le 2 emptied.pendingCount)) ∧
    s.dropFault e = { s.post ⟨.flashFault, none, none, if e.info.kind = .dump then some e.info.stream else none, s.tick,
        e.info.payloadLen⟩ with
      commit := { s.commit with fault := satInc max16 s.commit.fault }, freeList := s.freeList ++ e.chain }) ∧
  (∀ s : State, ((∀ job ended, s.link.server ≠ .working job ended) → s.endRefused = s) ∧
    ∀ (job : Job) (ended : Bool) (q : Queued) (rest : List Queued), s.link.server = .working job ended →
      s.link.queue = q :: rest →
      let refused (body : List Byte) : State := s.replied q.req.kind q.tag .refusedState body false
      (∀ upTo marked, job = .release upTo marked →
        s.endRefused = refused (le 4 marked ++ le 4 ((s.store.oldest.map Prod.fst).getD 0))) ∧
      (∀ sectors, job = .format sectors → s.endRefused = { refused [] with
        store := { s.store with low := (refused []).lowNow } }) ∧
      ((∀ upTo marked, job ≠ .release upTo marked) → (∀ sectors, job ≠ .format sectors) → s.endRefused = refused [])) ∧
  (∀ (s : State) (ok : Bool), s.port.inFlight = none →
    let report : OpKind → Instr
      | .pageProgram => .pageProgramComplete ok
      | .stateByte => .stateByteProgramComplete ok
      | .pageRead => .pageReadComplete
      | .erase => .sectorEraseComplete ok
    exec .flashTimeLimitExpiry s = .next s ∧
    ∀ kind, kind ≠ .pageRead →
      (s.port.lateReport = some kind → exec (report kind) s = .next { s with
        port := { s.port with lateReport := none }
        commit := { s.commit with
          flashFaults := if ok then s.commit.flashFaults else satInc max16 s.commit.flashFaults } }) ∧
      (s.port.lateReport ≠ some kind → exec (report kind) s = .next s))

/-- A record frame, as Formats lays it out. The page count fixed at a record's admission is what counting its frame pages one
by one from the tail gives, with a mark page before each sector that the record enters. Every field of the header stands at
its place, the header check over all of them but the state byte, taken as 0xFF, and what is written from values that fit
their fields is read back, whatever the state byte and whatever follows; a page of 40 bytes or more is read as a header
exactly when its check passes. The same for the sector mark's 10 bytes: its state IN_USE, its three fields and its check. -/
def Obligations.RecordsAreLaidOut : Prop :=
  (∀ tail payloadLen : Nat, pageCount tail payloadLen = pagesTaken ((48 + payloadLen + 255) / 256) tail) ∧
  (∀ (state : Byte) (i : RecInfo) (seq epoch prev : Nat) (rest : List Byte),
    let b := headerBytes state i seq epoch prev
    let kind := match i.kind with
      | .dump => 1 | .history => 2 | .events => 3 | .anomalies => 4 | .openMark => 5 | .closeMark => 6
    let completion := match i.completion with
      | .complete => 0 | .restarted => 1 | .length => 2 | .pool => 3 | .aged => 4 | .flushed => 5
    Lays b 40 [(0, 1, state.toNat), (1, 1, kind), (4, 4, seq), (8, 2, epoch),
      (10, 2, i.source.unit % 1024 + 1024 * (i.source.domain % 64)), (12, 2, i.stream), (14, 1, i.cls), (15, 1, completion),
      (16, 1, i.lane % 16 + 128 * i.gap.toNat), (17, 1, i.missing), (18, 2, i.fragCount), (20, 4, i.payloadLen),
      (24, 6, i.firstTick), (30, 6, i.doneTick), (36, 4, prev)] ∧
    (b.drop 2).take 2 = crcBytes (0xFF :: ((b.drop 1).take 1 ++ b.drop 4)) ∧
    (seq < 2 ^ 32 → epoch < 2 ^ 16 → i.payloadLen < 2 ^ 32 → i.firstTick < 2 ^ 48 → prev < 2 ^ 32 →
      Header.parse (b ++ rest) = some ⟨state, kind, seq, epoch, i.payloadLen, i.firstTick, prev⟩)) ∧
  (∀ page : List Byte, 40 ≤ page.length →
    let check := crcBytes (0xFF :: ((page.drop 1).take 1 ++ (page.drop 4).take 36))
    ((page.drop 2).take 2 = check → Header.parse page = some ⟨page.getD 0 0, fieldOf page 1 1, fieldOf page 4 4,
      fieldOf page 8 2, fieldOf page 20 4, fieldOf page 24 6, fieldOf page 36 4⟩) ∧
    ((page.drop 2).take 2 ≠ check → Header.parse page = none)) ∧
  (∀ (m : Mark) (rest : List Byte),
    Lays m.bytes 10 [(0, 1, 0x7F), (1, 4, m.seq), (5, 2, m.epoch), (7, 1, m.firstRecord)] ∧
    m.bytes.drop 8 = crcBytes (m.bytes.take 8) ∧
    (m.seq < 2 ^ 32 → m.epoch < 2 ^ 16 → m.firstRecord < 2 ^ 8 → Mark.parse (m.bytes ++ rest) = some m)) ∧
  (∀ page : List Byte, 10 ≤ page.length →
    (page.getD 0 0 = 0x7F → (page.drop 8).take 2 = crcBytes (page.take 8) →
      Mark.parse page = some ⟨fieldOf page 1 4, fieldOf page 5 2, fieldOf page 7 1⟩) ∧
    (page.getD 0 0 ≠ 0x7F ∨ (page.drop 8).take 2 ≠ crcBytes (page.take 8) → Mark.parse page = none))

/-- The layouts of Formats for what the part writes of its own: a history entry of 40 bytes, its origin by kind and number
and its data padded with 0; an anomaly of 16 bytes, with the flags that say which of its fields are present; and the payloads
of HISTORY, EVENTS and ANOMALIES, each its counts and then every entry in its place, in order. The close writes EVENTS and
ANOMALIES carry the post-trigger list and the anomaly queue as they stand. -/
def Obligations.EntriesAndPayloadsAreLaidOut : Prop :=
  (∀ e : HEntry, e.data.length ≤ 24 →
    let origin := match e.origin with
      | .lane l _ => 32 + l % 32 | .trigger l => 64 + l % 32 | .service => 96
      | .part .epoch => 129 | .part .power => 130 | .part .writer => 131
    let source := match e.origin with | .lane _ a => a.unit % 1024 + 1024 * (a.domain % 64) | _ => 0
    Lays e.bytes 40 [(0, 4, e.seq), (4, 6, e.tick), (10, 1, origin), (11, 2, source), (13, 2, e.code),
      (15, 1, e.data.length)] ∧
    e.bytes.drop 16 = e.data ++ List.replicate (24 - e.data.length) 0) ∧
  (∀ a : Anomaly,
    let kind := match a.kind with
      | .unknownDomain => 1 | .unitOutOfSpan => 2 | .streamBarred => 3 | .unexpectedContinuation => 4 | .duplicate => 5
      | .stale => 6 | .notCapturing => 7 | .agedOut => 8 | .evicted => 9 | .queueFull => 10 | .budget => 11
      | .storeFull => 12 | .flashFault => 13 | .cannotOpen => 14 | .laneError => 15 | .configLost => 16
    let source := match a.source with | some x => x.unit % 1024 + 1024 * (x.domain % 64) | none => 0
    Lays a.bytes 16 [(0, 1, kind), (1, 1, a.lane.getD 0 % 16 + 16 * a.lane.isSome.toNat + 32 * a.source.isSome.toNat
      + 64 * a.stream.isSome.toNat), (2, 2, source), (4, 2, a.stream.getD 0), (6, 6, a.tick), (12, 4, a.detail)]) ∧
  (∀ ring : List HEntry, (∀ e ∈ ring, e.data.length ≤ 24) →
    (historyPayload ring).length = 2 + 40 * ring.length ∧ fieldOf (historyPayload ring) 0 2 = ring.length % 65536 ∧
    ∀ k e, ring[k]? = some e → ((historyPayload ring).drop (2 + 40 * k)).take 40 = e.bytes) ∧
  (∀ h : History, (∀ e ∈ h.list, e.data.length ≤ 24) →
    let b := eventsPayload h
    b.length = 8 + 40 * h.list.length ∧
    Lays (b.take 8) 8 [(0, 2, h.list.length), (2, 2, h.lostEvents), (4, 4, (h.list.getLast?.map HEntry.seq).getD 0)] ∧
    ∀ k e, h.list[k]? = some e → (b.drop (8 + 40 * k)).take 40 = e.bytes) ∧
  (∀ q : Anomalies,
    let b := anomaliesPayload q
    b.length = 4 + 16 * q.entries.length ∧ Lays (b.take 4) 4 [(0, 2, q.entries.length), (2, 2, q.lost)] ∧
    ∀ k a, q.entries[k]? = some a → (b.drop (4 + 16 * k)).take 16 = a.bytes) ∧
  (∀ s : State, s.closePayload .events = eventsPayload s.history ∧ s.closePayload .anomalies = anomaliesPayload s.anomalies)

/-- The configuration image: from a flash that holds the image composed from settings that fit their fields, start-up loads
exactly those settings and that image sequence, and queues no CONFIG_LOST (log 10). -/
def Obligations.ImageRoundTrip : Prop :=
  ∀ (flash : List Host.Cell) (seq : Nat) (c : Settings), seq < 2 ^ 32 → c.Fits →
    (∀ k, k < 1416 → Memory.read 0xFF flash k = (imageBytes seq c).getD k 0) →
    (imageBytes seq c).length = 1416 ∧ loadImage flash = ⟨c, seq, none⟩

/-! ## Hold-up power and the budget -/

/-- SCAN_TIMER_EXPIRY begins the next scan, and SCAN_COMPLETE takes it whole: the codes are stored, the estimate follows the
smallest of the last four A0 codes, the scan is counted, the timer starts, the comparator counts the A1 code, and in HOLDUP
the queue is examined. The count that reaches the setting declares MAIN_LOST (HOLDUP, its event, LOW without erasable space,
no erase claim, the end of a request in service whose claim waits, and then the epoch controller: from WATCH with power-opens
an opening request, from CAPTURE FLUSH with cause POWER and the hold-up grace, in FLUSH the grace cut to it) or MAIN_RESTORED
(LOW with erasable space). The order of MAIN_LOST's effects and events is log 15. A stopped timer does not expire and a scan
that is not in progress does not complete (log 2). -/
def Obligations.ScanStoresCodesAndCompares : Prop :=
  (∀ (s : State) (a0 a1 : AdcCode),
    let m := s.monitor
    (m.scanTimer = none → exec .scanTimerExpiry s = .next s) ∧
    (m.scanTimer ≠ none → exec .scanTimerExpiry s = .next
      { s with monitor := { m with scanning := true, scanTimer := none } }) ∧
    (m.scanning = false → exec (.scanComplete a0 a1) s = .next s) ∧
    (m.scanning = true →
      let c0 := m.codes.getD 0 0
      let c1 := m.codes.getD 1 0
      let c2 := m.codes.getD 2 0
      let v := min a0.val (min c0 (min c1 c2)) * s.budget.settings.scale / 4096
      let vf := s.budget.settings.floor
      let e := if v ≤ vf then 0 else min 4294967295 (s.budget.settings.capacitance * (v * v - vf * vf) / 2000)
      let scanned : Monitor := { m with
        codes := ⟨[a0.val, c0, c1, c2], rfl⟩, lastA1 := a1.val, scansSeen := min 4 (m.scansSeen + 1), scanning := false
        scanTimer := some (max 1 (duration m.settings.interval) * 100) }
      let p : PowerCounters := { s.powerCounters with scans := satInc max32 s.powerCounters.scans }
      let u : State := { s with budget := { s.budget with energy := e } }
      let below := a1.val < m.settings.failThreshold
      let above := m.settings.restoreThreshold ≤ a1.val
      let last := m.settings.count ≤ m.run + 1
      let data := le 2 a1.val ++ le 4 e
      let minimum := s.epoch.settings.closeReserve + 255
      let lost : State := { u with
        monitor := { scanned with power := .holdup, run := 0 }
        powerCounters := { p with losses := satInc max16 p.losses }
        port := { s.port with waitErase := none }
        store := { s.store with low := s.formatting || decide (s.store.erasedRun < minimum) }
        history := s.history.place s.tick (.part .power) 0x0301 data
        examDue := true }
      let main : State := { u with
        monitor := { scanned with power := .main, run := 0 }
        powerCounters := { p with restorations := satInc max16 p.restorations }
        history := s.history.place s.tick (.part .power) 0x0302 data
        examDue := true }
      (∀ n, (m.power = .main ∧ ¬ below ∧ n = 0) ∨ (m.power = .main ∧ below ∧ ¬ last ∧ n = m.run + 1) ∨
          (m.power = .holdup ∧ ¬ above ∧ n = 0) ∨ (m.power = .holdup ∧ above ∧ ¬ last ∧ n = m.run + 1) →
        exec (.scanComplete a0 a1) s = .next ({ u with
          monitor := { scanned with run := n }, powerCounters := p
          examDue := s.examDue || decide (m.power = .holdup) } : State).finish) ∧
      (m.power = .main → below → last →
        exec (.scanComplete a0 a1) s = .next lost.endServiceAtLoss.epochPowerEvent.finish) ∧
      (m.power = .holdup → above → last → exec (.scanComplete a0 a1) s = .next ({ main with
        store := { s.store with
          low := s.formatting || decide (s.store.erasedRun + main.erasable < minimum) } } : State).finish))) ∧
  (∀ s : State, (∀ job ended, s.link.server ≠ .working job ended) → s.endServiceAtLoss = s) ∧
  (∀ (s : State) (job : Job) (ended : Bool), s.link.server = .working job ended →
    (s.port.waitService = none → s.endServiceAtLoss = { s with link := { s.link with server := .working job true } }) ∧
    (∀ op q rest, s.port.waitService = some op → s.link.queue = q :: rest →
      let refused (body : List Byte) : State :=
        { s.replied q.req.kind q.tag .refusedState body false with port := { s.port with waitService := none } }
      (∀ upTo marked, job = .release upTo marked → s.endServiceAtLoss =
        refused (le 4 marked ++ le 4 ((s.store.oldest.map Prod.fst).getD 0))) ∧
      (∀ sectors, job = .format sectors → s.endServiceAtLoss = { refused [] with
        store := { s.store with low := (refused []).lowNow } }) ∧
      ((∀ upTo marked, job ≠ .release upTo marked) → (∀ sectors, job ≠ .format sectors) →
        s.endServiceAtLoss = refused []))) ∧
  (∀ s : State,
    let held := duration s.epoch.settings.holdupGrace * 1000
    let flushed (timer : Option Nat) : State := { s with
      epoch := { s.epoch with
        state := .flush, flushCause := .power, flushTick := s.tick, windowTimer := none, quietTimer := none
        graceTimer := timer }
      history := s.history.place s.tick (.part .epoch) 0x0202 [5, 0] }
    (s.epoch.state = .watch → s.epoch.settings.powerOpens = true → s.epochPowerEvent = s.openRequest .power) ∧
    (s.epoch.state = .watch → s.epoch.settings.powerOpens = false → s.epochPowerEvent = s) ∧
    (s.epoch.state = .closed → s.epochPowerEvent = s) ∧
    (s.epoch.state = .capture → held ≠ 0 → s.epochPowerEvent = (flushed (some held)).tellEpoch) ∧
    (s.epoch.state = .capture → held = 0 → s.epochPowerEvent = (flushed s.epoch.graceTimer).tellEpoch.closeStreams) ∧
    (s.epoch.state = .flush → s.epoch.graceTimer = none → s.epochPowerEvent = s) ∧
    (∀ left, s.epoch.state = .flush → s.epoch.graceTimer = some left →
      (held = 0 → s.epochPowerEvent = s.closeStreams) ∧
      (held ≠ 0 → s.epochPowerEvent = { s with epoch := { s.epoch with graceTimer := some (min held left) } })))

/-- R97: V = floor(code × S / 4096), formed exactly; below S for every code used; 0 for a code of 0. -/
def Obligations.VoltageFollowsCode : Prop :=
  (∀ code scale : Nat, voltage code scale * 4096 ≤ code * scale ∧ code * scale < (voltage code scale + 1) * 4096) ∧
  (∀ (m : Monitor) (scale : Nat), 0 < scale → voltage m.codeUsed scale < scale) ∧
  (∀ scale : Nat, voltage 0 scale = 0) ∧
  (∀ s : State, s.recomputeEnergy.budget.energy =
    energyOf s.budget.settings (voltage s.monitor.codeUsed s.budget.settings.scale))

/-- The estimate, the available energy (the estimate less the committed energy and the reserve, 0 when that is negative), the
answer to an admission question (the class at most the ceiling, the pages' cost at most the available energy), and what
admitting pages and completing or abandoning them does to the committed energy. -/
def Obligations.EnergyAndAdmissionAnswer : Prop :=
  (∀ (b : BudgetSettings) (v : Nat), v ≤ b.floor → energyOf b v = 0) ∧
  (∀ (b : BudgetSettings) (v : Nat), b.floor < v → energyOf b v =
    min (2 ^ 32 - 1) (b.capacitance * (v ^ 2 - b.floor ^ 2) / 2000)) ∧
  (∀ b : Budget, (b.available : Int) =
    max 0 ((b.energy : Int) - b.settings.pageCost * b.outstanding - b.settings.reserve)) ∧
  (∀ (b : Budget) (c n : Nat),
    b.answer c n = true ↔ c ≤ b.settings.ceiling ∧ n * b.settings.pageCost ≤ b.available) ∧
  (∀ (s : State) (n : Nat), (s.commitPages n).budget.committed = s.budget.committed + n * s.budget.settings.pageCost) ∧
  (∀ (s : State) (n : Nat), n ≤ s.budget.outstanding →
    (s.uncommitPages n).budget.committed + n * s.budget.settings.pageCost = s.budget.committed)

/-! ## Epochs -/

/-- The OPEN request. In WATCH with the conditions met the epoch opens with cause SERVICE and the reply is OK with the new
epoch number; with a condition not met CANNOT_OPEN is posted and the reply is REFUSED_STATE with the failed conditions; in
the other states the reply is REFUSED_STATE with the epoch state. EPOCH_OPEN is made in every case. A parked WAIT that the
opening or the anomaly resolves is answered before the request (log 15). During recovery the
answer is RETRY and nothing else happens. An opening request of any cause in WATCH: with LOW or FAULT CANNOT_OPEN is posted
with the cause's line or domain; else the ring is frozen, the tally starts, the timers run, and the OPEN_MARK (its 47 payload
bytes as Formats lays them out) and the HISTORY record are offered to the queue, in that order. -/
def Obligations.OpenCommandOpensOrRefuses : Prop :=
  (∀ (tag : Byte) (s : State), s.LinkFree →
     let event (h : History) (outcome : Byte) : History := h.place s.tick (.part .epoch) 0x0201 [4, 0, outcome]
     let refused (body : List Byte) : State := s.answered .openEpoch 0x09 tag .refusedState body
     let obstacle := (if s.store.low then 1 else 0) + if s.writer.state = .fault then 2 else 0
     (s.recovering = true → exec (.openEpoch tag) s = .next (s.answered .openEpoch 0x09 tag .retry [])) ∧
     (s.recovering = false →
       (s.epoch.state = .capture → exec (.openEpoch tag) s = .next { refused [2] with history := event s.history 3 }) ∧
       (s.epoch.state = .flush → exec (.openEpoch tag) s = .next { refused [3] with history := event s.history 3 }) ∧
       (s.epoch.state = .closed → exec (.openEpoch tag) s = .next { refused [4] with history := event s.history 4 }) ∧
       (s.epoch.state = .watch → obstacle ≠ 0 →
         let posted := (s.received .openEpoch tag).post ⟨.cannotOpen, none, none, none, s.tick, 4 * 256 + obstacle⟩
         exec (.openEpoch tag) s = .next
           { posted.replied 0x09 tag .refusedState (le 1 obstacle) false with history := event s.history 2 }) ∧
       (s.epoch.state = .watch → obstacle = 0 → s.queue = [] → s.store.exhausted = false →
         2 ≤ s.store.erasedRun →
         let number := if s.epoch.number < 65535 then s.epoch.number + 1 else 1
         let timer (ms : Nat) : Option Nat := if ms = 0 then none else some (ms * 1000)
         let told := ({ s.received .openEpoch tag with
           epoch := { s.epoch with state := .capture, number := number } } : State).tellEpoch
         ∃ t, exec (.openEpoch tag) s = .next t ∧
           t.link = (told.replied 0x09 tag .ok (le 2 number) false).link ∧
           t.epoch = { s.epoch with
             state := .capture, number := number, openCause := .service, openTick := s.tick, flushCause := .none
             flushTick := 0, streamsClosed := false, storeFullTaken := false, tally := ⟨0, 0, 0, false⟩
             windowTimer := timer s.epoch.settings.window, quietTimer := timer (duration s.epoch.settings.quiet)
             graceTimer := none } ∧
           t.history = event { s.history with frozen := true, list := [], lostEvents := 0 } 1 ∧
           t.writer.state = .programming ∧ (∃ f, t.writer.inFlight = some f ∧ f.info.kind = .openMark ∧
             f.info.payloadLen = 47 ∧ f.payload.length = 47) ∧
           t.queue.map (fun x => (x.info.kind, x.info.payloadLen)) = [(.history, 2 + 40 * s.history.ring.length)] ∧
           t.streams = s.streams ∧ t.freeList = s.freeList ∧ t.anomalies = s.anomalies ∧ t.store = s.store))) ∧
  (∀ (cause : OpenCause) (s : State), s.epoch.state = .watch →
    let code := match cause with | .none => 0 | .trigger _ => 1 | .source _ => 2 | .power => 3 | .service => 4
    let arg := match cause with | .trigger line => line | .source domain => domain | _ => 0
    let obstacle := (if s.store.low then 1 else 0) + if s.writer.state = .fault then 2 else 0
    let number := if s.epoch.number < 65535 then s.epoch.number + 1 else 1
    let timer (ms : Nat) : Option Nat := if ms = 0 then none else some (ms * 1000)
    let event (h : History) (outcome : Nat) : History :=
      h.place s.tick (.part .epoch) 0x0201 (le 1 code ++ le 1 arg ++ le 1 outcome)
    let own (kind : RecKind) (n : Nat) : RecInfo := ⟨kind, 0, ⟨0, 0⟩, 0, .complete, 0, false, 0, 0, n, 0, 0⟩
    let o : State := { s with
      epoch := { s.epoch with
        state := .capture, number := number, openCause := cause, openTick := s.tick, flushCause := .none
        flushTick := 0, streamsClosed := false, storeFullTaken := false, tally := ⟨0, 0, 0, false⟩
        windowTimer := timer s.epoch.settings.window, quietTimer := timer (duration s.epoch.settings.quiet)
        graceTimer := none }
      budget := { s.budget with exhaustionMade := false }
      history := { s.history with frozen := true, list := [], lostEvents := 0 }
      writer := { s.writer with state := .selecting, openMarkDropped := false, openMarkSeq := none } }
    let anchor (field : Anchor → Nat) : Nat := (s.anchor.map field).getD 0
    (obstacle ≠ 0 → s.openRequest cause = { s.post ⟨.cannotOpen,
        match cause with | .trigger line => some line | _ => none,
        match cause with | .source domain => some ⟨domain, 0⟩ | _ => none, none, s.tick, code * 256 + obstacle⟩ with
      history := event s.history 2 }) ∧
    (obstacle = 0 → s.openRequest cause = ({
        (o.offer ⟨own .openMark 47, [], o.openMarkPayload⟩).offer
          ⟨own .history (2 + 40 * s.history.ring.length), [], []⟩ with
        history := event o.history 1, examDue := true } : State).tellEpoch) ∧
    Lays o.openMarkPayload 47 [(0, 2, number), (2, 1, code), (3, 1, arg), (4, 6, s.tick), (10, 1, s.anchor.isSome.toNat),
      (11, 8, anchor Anchor.seconds), (19, 4, anchor Anchor.microseconds), (23, 6, anchor Anchor.tick),
      (29, 2, anchor Anchor.wrap), (31, 4, s.imageSeq), (35, 1, match s.monitor.power with | .main => 1 | .holdup => 2),
      (36, 4, (s.history.ring.getLast?.map HEntry.seq).getD 0), (40, 2, s.history.ring.length),
      (42, 2, s.epoch.settings.window), (44, 1, s.epoch.settings.quiet), (45, 1, s.epoch.settings.grace),
      (46, 1, s.epoch.settings.holdupGrace)])

/-- WINDOW_EXPIRY, QUIET_EXPIRY, GRACE_EXPIRY and the FLUSH request. Out of CAPTURE the epoch enters FLUSH with its cause and
the grace of the power state; with no grace, for FLUSH with the choice NONE, and when the grace ends in FLUSH, the close of
all streams is taken, once per epoch: in index order every open record is closed TRUNCATED (FLUSHED) and handed over to the
commit queue, every stream that is not BARRED is IDLE with idle fields, the grace timer stops, and the writer has an occasion
to examine the queue. In another state an expiry only stops its timer; a stopped timer does not expire (log 2). The FLUSH
request is REFUSED_STATE with the epoch state in WATCH and CLOSED, and BAD_ARGUMENT for a choice without a code. A parked
WAIT is answered before the request (log 15). -/
def Obligations.EpochTimersAndFlushRequest : Prop :=
  (∀ (s : State) (c : Instr) (timer : Option Nat) (cause : FlushCause) (code : Byte) (stopped : Epoch),
    (c = .windowExpiry ∧ timer = s.epoch.windowTimer ∧ cause = .window ∧ code = 1 ∧
        stopped = { s.epoch with windowTimer := none }) ∨
      (c = .quietExpiry ∧ timer = s.epoch.quietTimer ∧ cause = .quiet ∧ code = 2 ∧
        stopped = { s.epoch with quietTimer := none }) →
    let grace := duration (if s.monitor.power = .main then s.epoch.settings.grace else s.epoch.settings.holdupGrace)
    let entered (timer : Option Nat) : State := { s with
      epoch := { s.epoch with
        state := .flush, flushCause := cause, flushTick := s.tick, windowTimer := none, quietTimer := none
        graceTimer := timer }
      history := s.history.place s.tick (.part .epoch) 0x0202 [code, 0] }
    (timer = none → exec c s = .next s) ∧
    (timer ≠ none → s.epoch.state ≠ .capture → exec c s = .next { s with epoch := stopped }) ∧
    (timer ≠ none → s.epoch.state = .capture → grace ≠ 0 →
      exec c s = .next (entered (some (grace * 1000))).tellEpoch.finish) ∧
    (timer ≠ none → s.epoch.state = .capture → grace = 0 →
      exec c s = .next (entered s.epoch.graceTimer).tellEpoch.closeStreams.finish)) ∧
  (∀ s : State,
    let stopped : State := { s with epoch := { s.epoch with graceTimer := none } }
    (s.epoch.graceTimer = none → exec .graceExpiry s = .next s) ∧
    (s.epoch.graceTimer ≠ none → s.epoch.state ≠ .flush → exec .graceExpiry s = .next stopped) ∧
    (s.epoch.graceTimer ≠ none → s.epoch.state = .flush → exec .graceExpiry s = .next stopped.closeStreams.finish)) ∧
  (∀ (tag : Byte) (choice : Nat) (s : State), s.Serves →
    let got := exec (.flush tag choice) s
    let grace := duration (if s.monitor.power = .main then s.epoch.settings.grace else s.epoch.settings.holdupGrace)
    let received := s.received (.flush (decide (choice = 2))) tag
    let entered (timer : Option Nat) : State := { received with
      epoch := { s.epoch with
        state := .flush, flushCause := .service, flushTick := s.tick, windowTimer := none, quietTimer := none
        graceTimer := timer }
      history := s.history.place s.tick (.part .epoch) 0x0202 [4, 0] }
    let answered (t : State) (status : Status) (body : List Byte) : State := t.replied 0x0A tag status body false
    (choice ≠ 1 → choice ≠ 2 → got = .next (s.answered (.malformed 0x0A) 0x0A tag .badArgument [])) ∧
    (choice = 1 ∨ choice = 2 →
      (s.epoch.state = .watch → got = .next (answered received .refusedState [1])) ∧
      (s.epoch.state = .closed → got = .next (answered received .refusedState [4]))) ∧
    (choice = 1 → s.epoch.state = .flush → got = .next (answered received .ok [])) ∧
    (choice = 1 → s.epoch.state = .capture → grace ≠ 0 →
      got = .next (answered (entered (some (grace * 1000))).tellEpoch .ok []).finish) ∧
    (choice = 2 ∨ choice = 1 ∧ grace = 0 → s.epoch.state = .capture →
      got = .next (answered (entered s.epoch.graceTimer).tellEpoch.closeStreams .ok []).finish) ∧
    (choice = 2 → s.epoch.state = .flush → got = .next (answered received.closeStreams .ok []).finish)) ∧
  (∀ s : State,
    let t := s.closeStreams
    let closed := (List.range 512).foldl State.closeStream { s with epoch := { s.epoch with graceTimer := none } }
    (s.epoch.streamsClosed = true → t = s) ∧
    (s.epoch.streamsClosed = false →
      t = { closed with epoch := { closed.epoch with streamsClosed := true }, examDue := true } ∧
      t.epoch = { s.epoch with graceTimer := none, streamsClosed := true, tally := t.epoch.tally } ∧
      (s.reassembly.flushed + 512 ≤ 4294967295 → t.reassembly = { s.reassembly with flushed := s.reassembly.flushed +
        ((List.range 512).filter fun i => decide ((s.stream i).state = .assembling)).length }) ∧
      (∀ i, i < 512 → (s.stream i).state = .assembling ∨ (s.stream i).state = .discarding →
        t.stream i = { s.stream i with state := .idle, record := ⟨0, 1, [], 0, 0, false, 0, 0, 0, 0, ⟨0, 0⟩⟩ }) ∧
      (∀ i, i < 512 → (s.stream i).state = .idle ∨ (s.stream i).state = .barred → t.stream i = s.stream i) ∧
      t.writer = s.writer ∧ t.port = s.port ∧ t.history = s.history ∧ t.pool = s.pool ∧ t.flash = s.flash ∧
      t.store = s.store)) ∧
  (∀ (s : State) (i : Nat) (r : InProgress), (s.stream i).record = r →
    let idled := s.setStream i { s.stream i with state := .idle, record := InProgress.idle }
    ((s.stream i).state = .assembling → s.closeStream i = ({ idled with
      reassembly := { s.reassembly with flushed := satInc max32 s.reassembly.flushed } } : State).offer
        ⟨⟨.dump, r.cls, r.source, i, .flushed, r.firstLane, r.gap, r.missing, r.fragCount, r.bytes, r.firstTick, s.tick⟩,
          r.chain, []⟩) ∧
    ((s.stream i).state = .discarding → s.closeStream i = idled) ∧
    ((s.stream i).state = .idle ∨ (s.stream i).state = .barred → s.closeStream i = s))

/-- The close of an epoch. On entry to CLOSING each record still queued is dropped in queue order, by the space test with
STORE_FULL and otherwise with BUDGET, and EVENTS, ANOMALIES and the CLOSE_MARK are written, unless the OPEN_MARK was dropped.
Each close write is composed when it is taken (the CLOSE_MARK's 30 payload bytes as Formats lays them out); one that does not
fit is passed over with STORE_FULL. After the last the writer is IDLE and the epoch CLOSED: every pending copy becomes the
active value, a change of enabled moves its stream into or out of BARRED, a change of the sweep's range or interval starts
the sweep anew, EPOCH_CLOSED is made, and CONFIG_APPLIED when a copy was held; with the policy AUTO, LOW clear and the main
rail up the part then rearms. -/
def Obligations.EpochClosesAndAppliesPending : Prop :=
  (∀ (s : State) (e : QEntry),
    (s.writer.state = .selecting → s.queue = [] → s.epoch.state = .flush → s.epoch.streamsClosed = true →
      s.monitor.power = .main → s.writer.openMarkDropped = false →
      s.examineOnce = ({ s with examDue := false } : State).enterClosing) ∧
    (let dropped := s.queue.foldl State.dropAtClosing { s with queue := [], writer := { s.writer with state := .closing } }
     (dropped.writer.openMarkDropped = false →
       s.enterClosing = State.nextClose [.events, .anomalies, .closeMark] dropped) ∧
     (dropped.writer.openMarkDropped = true → s.enterClosing = dropped.closeEpoch)) ∧
    (s.spaceTest e.info = .refused → s.dropAtClosing e = s.dropStoreFull e) ∧
    (s.spaceTest e.info ≠ .refused → s.dropAtClosing e = s.dropBudget e)) ∧
  (∀ (s : State) (kind : RecKind) (later : List RecKind),
    let payload := s.closePayload kind
    let n := pageCount s.store.tail payload.length
    let passed : State := { s.post ⟨.storeFull, none, none, none, s.tick, n⟩ with
      commit := { s.commit with storeFull := satInc max16 s.commit.storeFull } }
    State.nextClose [] s = s.closeEpoch ∧
    (s.store.exhausted = false → n ≤ s.store.erasedRun → State.nextClose (kind :: later) s =
      ({ s with writer := { s.writer with toClose := later } } : State).beginRecord
        ⟨⟨kind, 0, ⟨0, 0⟩, 0, .complete, 0, false, 0, 0, payload.length, 0, 0⟩, [], payload⟩ .closing) ∧
    (s.store.exhausted = true ∨ s.store.erasedRun < n →
      State.nextClose (kind :: later) s = State.nextClose later passed) ∧
    Lays (s.closePayload .closeMark) 30 [(0, 2, s.epoch.number), (2, 1, s.epoch.openCause.code),
      (3, 1, s.epoch.openCause.arg), (4, 6, s.epoch.openTick), (10, 1, s.epoch.flushCause.code),
      (11, 1, s.epoch.flushCause.arg), (12, 6, s.epoch.flushTick),
      (18, 1, match s.monitor.power with | .main => 1 | .holdup => 2),
      (19, 1, s.budget.exhaustionMade.toNat + 2 * s.epoch.storeFullTaken.toNat + 4 * s.epoch.tally.history.toNat),
      (20, 2, s.epoch.tally.written), (22, 2, s.epoch.tally.lost), (24, 2, s.epoch.tally.admitted),
      (26, 2, s.history.lostEvents), (28, 2, s.anomalies.lost)]) ∧
  (∀ (s : State) (forced : Bool),
    let n := s.pendingCount
    let closed := s.history.place s.tick (.part .epoch) 0x0203
      (le 2 s.epoch.number ++ le 1 s.epoch.flushCause.code ++ le 1 forced.toNat)
    let idle : State := { s with writer := { s.writer with state := .idle, toClose := [] } }
    s.enterClosed forced = ({ s.applyPending with
      epoch := { s.epoch with state := .closed }
      history := if n = 0 then closed else closed.place s.tick (.part .epoch) 0x0204 (le 2 n) } : State).tellEpoch ∧
    (s.epoch.settings.autoRearm = true → s.store.low = false → s.monitor.power = .main →
      s.closeEpoch = (idle.enterClosed false).rearm 2) ∧
    (s.epoch.settings.autoRearm = false ∨ s.store.low = true ∨ s.monitor.power = .holdup →
      s.closeEpoch = idle.enterClosed false)) ∧
  (∀ (s : State) (source : Nat),
    let t := s.rearm source
    t.epoch = { s.epoch with state := .watch } ∧
    t.history = s.history.merge.place s.tick (.part .epoch) 0x0205 (le 1 source) ∧
    (∀ i, i < 512 → t.stream i = { s.stream i with
      state := if (s.stream i).state = .barred then .barred else .idle
      record := ⟨0, 1, [], 0, 0, false, 0, 0, 0, 0, ⟨0, 0⟩⟩ }) ∧
    (∀ l, t.line l = { s.line l with count := 0 }) ∧
    t.link = ({ s with epoch := { s.epoch with state := .watch } } : State).tellEpoch.link ∧
    { t with epoch := s.epoch, history := s.history, streams := s.streams, lines := s.lines, link := s.link } = s) ∧
  (∀ s : State,
    let t := s.applyPending
    let now {α : Type} (p : Pend α) : Pend α := ⟨p.pending.getD p.active, none⟩
    (∀ d, d < 64 → t.domainEntry d = now (s.domainEntry d)) ∧ t.primary = now s.primary ∧
    t.poolReserve = now s.poolReserve ∧
    (∀ i, i < 512 →
      let old := s.stream i
      let new := old.settings.pending.getD old.settings.active
      t.stream i = if new.enabled = old.settings.active.enabled then { old with settings := ⟨new, none⟩ }
        else { old with
          settings := ⟨new, none⟩, state := if new.enabled then .idle else .barred
          record := ⟨0, 1, [], 0, 0, false, 0, 0, 0, 0, ⟨0, 0⟩⟩ }) ∧
    t.aging = now s.aging ∧
    (let old := s.aging.active
     let new := (now s.aging).active
     let same := new.first = old.first ∧ new.last = old.last ∧ new.interval = old.interval
     t.cursor = (if same then s.cursor else new.first) ∧
     t.sweepTimer = if same then s.sweepTimer
       else if duration new.interval = 0 then none else some (duration new.interval * 100)) ∧
    { t with
      domains := s.domains, primary := s.primary, poolReserve := s.poolReserve, streams := s.streams, aging := s.aging
      cursor := s.cursor, sweepTimer := s.sweepTimer } = s ∧
    s.pendingCount = ((List.range 64).filter fun d => (s.domainEntry d).pending.isSome).length + s.primary.pending.isSome.toNat
      + ((List.range 512).filter fun i => (s.stream i).settings.pending.isSome).length + s.aging.pending.isSome.toNat
      + s.poolReserve.pending.isSome.toNat)

/-- The REARM request. In CLOSED with no condition against it the list joins the ring and the ring is live again, every stream
that is not BARRED is idle, the prescale counts are 0, the epoch state is WATCH and REARMED is made; with a condition not met
the reply is REFUSED_STATE with the conditions, in another state with the epoch state. A parked WAIT that the change of state
resolves is answered before the request (log 15). -/
def Obligations.RearmCommandRearms : Prop :=
  ∀ (tag : Byte) (s : State), s.Serves →
    let conditions := (if s.store.low then 1 else 0) + (if s.writer.state = .fault then 2 else 0)
      + if s.monitor.power = .holdup then 4 else 0
    let refused (body : List Byte) : State := s.answered .rearm 0x0B tag .refusedState body
    (s.epoch.state = .watch → exec (.rearm tag) s = .next (refused [1])) ∧
    (s.epoch.state = .capture → exec (.rearm tag) s = .next (refused [2])) ∧
    (s.epoch.state = .flush → exec (.rearm tag) s = .next (refused [3])) ∧
    (s.epoch.state = .closed → conditions ≠ 0 → exec (.rearm tag) s = .next (refused (le 1 conditions))) ∧
    (s.epoch.state = .closed → conditions = 0 →
      let told := ({ s.received .rearm tag with epoch := { s.epoch with state := .watch } } : State).tellEpoch
      ∃ t, exec (.rearm tag) s = .next t ∧ t.epoch = { s.epoch with state := .watch } ∧
        t.history = s.history.merge.place s.tick (.part .epoch) 0x0205 [1] ∧
        s.history.merge.list = [] ∧ s.history.merge.frozen = false ∧
        (s.history.ring.length + s.history.list.length ≤ 1024 →
          s.history.merge.ring = s.history.ring ++ s.history.list) ∧
        (∀ i, i < 512 → t.stream i = { s.stream i with
          state := if (s.stream i).state = .barred then .barred else .idle
          record := ⟨0, 1, [], 0, 0, false, 0, 0, 0, 0, ⟨0, 0⟩⟩ }) ∧
        (∀ l, t.line l = { s.line l with count := 0 }) ∧
        t.link = (told.replied 0x0B tag .ok [] false).link ∧
        { t with epoch := s.epoch, history := s.history, streams := s.streams, lines := s.lines, link := s.link } = s)

/-! ## Trigger lines -/

/-- TRIGGER_INPUT_CHANGE and FILTER_RUN_COMPLETE while the filter decides: an input that returns to the filtered level ends
its run, one that leaves it starts a run, and a level that has no run to complete changes nothing (log 2). The sixteen
filter times. A filtered transition, at once with filter code 0 or when a filter run has held for the filter time (its tick:
log 31). The line takes the level; on the active edge of a line that is not OFF the edge is counted, and the line fires when
its prescale count is reached: one history entry at the tick of the transition, and then its mode's request: none for EVENT,
FLUSH entry from CAPTURE for FLUSH, with the grace of the power state or the close of all streams, and for OPEN the opening
request: in WATCH the epoch opens with cause TRIGGER and the line, or CANNOT_OPEN is posted. -/
def Obligations.TriggerInputIsFilteredAndFires : Prop :=
  ((∀ (line : LineNo) (level : Bool) (s : State) (l : TriggerLine), s.line line = l →
    (level = l.input → exec (.triggerInputChange line level) s = .next s) ∧
    (level ≠ l.input → level = l.level → exec (.triggerInputChange line level) s = .next
      (s.setLine line { l with input := level, run := none })) ∧
    (level ≠ l.input → level ≠ l.level → filterTime l.settings.filterCode ≠ 0 →
      exec (.triggerInputChange line level) s = .next
        (s.setLine line { l with input := level, run := some (level, s.tick) })) ∧
    (l.run = none → exec (.filterRunComplete line) s = .next s)) ∧
  (List.range 16).map filterTime = [0, 1, 2, 4, 8, 16, 32, 64, 128, 256, 512, 1000, 2000, 5000, 10000, 20000]) ∧
  (∀ (line : LineNo) (level : Bool) (s : State) (l : TriggerLine) (c : Instr) (input : Bool) (tick since : Nat),
    s.line line = l →
    (c = .triggerInputChange line level ∧ level ≠ l.input ∧ level ≠ l.level ∧ filterTime l.settings.filterCode = 0 ∧
        input = level ∧ tick = s.tick ∧ since = s.tick) ∨
      (c = .filterRunComplete line ∧ l.run = some (level, since) ∧ input = l.input ∧
        tick = (since + filterTime l.settings.filterCode) % 2 ^ 48) →
    let moved : TriggerLine := { l with input := input, level := level, run := none }
    let fired := s.setLine line { moved with
      edges := satInc max32 l.edges, count := 0, firings := satInc max16 l.firings }
    let entry (code : Nat) : History :=
      s.history.place tick (.trigger line.val) code (le 1 l.settings.prescale ++ le 6 since)
    let grace := duration (if s.monitor.power = .main then s.epoch.settings.grace else s.epoch.settings.holdupGrace)
    let flushed (timer : Option Nat) : State := { fired with
      history := (entry 0x0103).place s.tick (.part .epoch) 0x0202 [3, BitVec.ofNat 8 line.val]
      epoch := { s.epoch with
        state := .flush, flushCause := .trigger line.val, flushTick := s.tick, windowTimer := none
        quietTimer := none, graceTimer := timer } }
    let asked (outcome : Byte) : History :=
      (entry 0x0102).place s.tick (.part .epoch) 0x0201 [1, BitVec.ofNat 8 line.val, outcome]
    let obstacle := (if s.store.low then 1 else 0) + if s.writer.state = .fault then 2 else 0
    (level ≠ l.settings.activeHigh ∨ l.settings.mode = .off → exec c s = .next (s.setLine line moved).finish) ∧
    (level = l.settings.activeHigh → l.settings.mode ≠ .off → l.count + 1 < l.settings.prescale →
      exec c s = .next (s.setLine line { moved with edges := satInc max32 l.edges, count := l.count + 1 }).finish) ∧
    (level = l.settings.activeHigh → l.settings.prescale ≤ l.count + 1 →
      (l.settings.mode = .event → exec c s = .next ({ fired with history := entry 0x0101 } : State).finish) ∧
      (l.settings.mode = .flush → s.epoch.state ≠ .capture →
        exec c s = .next ({ fired with history := entry 0x0103 } : State).finish) ∧
      (l.settings.mode = .flush → s.epoch.state = .capture → grace ≠ 0 →
        exec c s = .next (flushed (some (grace * 1000))).tellEpoch.finish) ∧
      (l.settings.mode = .flush → s.epoch.state = .capture → grace = 0 →
        exec c s = .next (flushed s.epoch.graceTimer).tellEpoch.closeStreams.finish) ∧
      (l.settings.mode = .openEpoch → s.epoch.state = .capture ∨ s.epoch.state = .flush →
        exec c s = .next ({ fired with history := asked 3 } : State).finish) ∧
      (l.settings.mode = .openEpoch → s.epoch.state = .closed →
        exec c s = .next ({ fired with history := asked 4 } : State).finish) ∧
      (l.settings.mode = .openEpoch → s.epoch.state = .watch → obstacle ≠ 0 →
        exec c s = .next ({ fired.post ⟨.cannotOpen, some line.val, none, none, s.tick, 256 + obstacle⟩ with
          history := asked 2 } : State).finish) ∧
      (l.settings.mode = .openEpoch → s.epoch.state = .watch → obstacle = 0 → s.queue = [] → ∃ u : State,
        exec c s = .next u.finish ∧
        u.epoch = { s.epoch with
          state := .capture, number := if s.epoch.number < 65535 then s.epoch.number + 1 else 1
          openCause := .trigger line.val, openTick := s.tick, flushCause := .none, flushTick := 0
          streamsClosed := false, storeFullTaken := false, tally := ⟨0, 0, 0, false⟩, graceTimer := none
          windowTimer := if s.epoch.settings.window = 0 then none else some (s.epoch.settings.window * 1000)
          quietTimer := if duration s.epoch.settings.quiet = 0 then none
            else some (duration s.epoch.settings.quiet * 1000) } ∧
        u.history = ({ entry 0x0102 with frozen := true, list := [], lostEvents := 0 } : History).place s.tick
          (.part .epoch) 0x0201 [1, BitVec.ofNat 8 line.val, 1] ∧
        u.writer = { s.writer with state := .selecting, openMarkDropped := false, openMarkSeq := none } ∧
        u.queue.map (fun x => x.info.kind) = [.openMark, .history] ∧ u.examDue = true ∧ u.lines = fired.lines ∧
        u.anomalies = s.anomalies ∧ u.streams = s.streams ∧ u.store = s.store ∧ u.port = s.port)))

/-! ## Event history and anomalies -/

/-- One history entry placed: into the live ring, whose oldest entry gives way when 1,024 are held; into the post-trigger
list while the ring is frozen; or, with 256 listed, dropped and counted, without a sequence. The LOG request places an entry
with origin SERVICE and answers OK with its placement and the sequence it got, and the READ-HISTORY request answers with the
entries from the one asked for on, or, when it is neither present nor the next to be admitted, from the oldest present with
the flag NOT_PRESENT; it changes nothing (its following sequence with none returned: log 28). -/
def Obligations.HistoryPlacesLogsAndReads : Prop :=
  (∀ (h : History) (tick : Nat) (origin : Origin) (code : Nat) (data : List Byte),
    let e : HEntry := ⟨h.nextSeq, tick, origin, code, data⟩
    let next := if h.nextSeq < 4294967295 then h.nextSeq + 1 else 1
    let admitted := satInc max32 h.admitted
    let t := h.place tick origin code data
    (h.frozen = false → h.ring.length < 1024 →
      t = { h with ring := h.ring ++ [e], nextSeq := next, admitted := admitted }) ∧
    (∀ oldest rest, h.frozen = false → h.ring = oldest :: rest → 1024 ≤ h.ring.length → t = { h with
      ring := rest ++ [e], nextSeq := next, admitted := admitted, overwrites := satInc max32 h.overwrites }) ∧
    (h.frozen = true → h.list.length < 256 →
      t = { h with list := h.list ++ [e], nextSeq := next, admitted := admitted }) ∧
    (h.frozen = true → 256 ≤ h.list.length →
      t = { h with lostEvents := satInc max16 h.lostEvents, dropped := satInc max32 h.dropped })) ∧
  ((∀ (tag : Byte) (code : Nat) (data : List Byte) (s : State), s.Serves →
    let h := s.history
    let placement := if h.frozen = false then 1 else if h.list.length < 256 then 2 else 3
    (24 < data.length → exec (.log tag code data) s = .next (s.answered (.log code data) 0x08 tag .badArgument [])) ∧
    (data.length ≤ 24 → exec (.log tag code data) s = .next
      { s.answered (.log code data) 0x08 tag .ok
          (le 1 placement ++ le 4 (if placement = 3 then 0 else h.nextSeq)) with
        history := h.place s.tick .service code data })) ∧
  (∀ (tag : Byte) (fromSeq count : Nat) (s : State), s.Serves →
    let h := s.history
    let whole := h.ring.map (fun e => (e, 1)) ++ h.list.map (fun e => (e, 2))
    let present := whole.any fun e => decide (e.1.seq = fromSeq)
    let next := decide (fromSeq = h.nextSeq)
    let out := (if present then whole.dropWhile (fun e => decide (e.1.seq ≠ fromSeq))
      else if next then [] else whole).take count
    let after (n : Nat) : Nat := if n < 4294967295 then n + 1 else 1
    (count = 0 ∨ 16 < count → exec (.readHistory tag fromSeq count) s = .next
      (s.answered (.readHistory fromSeq count) 0x13 tag .badArgument [])) ∧
    (1 ≤ count → count ≤ 16 → exec (.readHistory tag fromSeq count) s = .next
      (s.answered (.readHistory fromSeq count) 0x13 tag .ok
        (le 4 ((whole.head?.map fun e => e.1.seq).getD 0) ++ le 4 ((whole.getLast?.map fun e => e.1.seq).getD 0)
          ++ le 4 ((out.getLast?.map fun e => after e.1.seq).getD h.nextSeq)
          ++ le 1 ((if present || next then 0 else 1) + if h.frozen then 2 else 0) ++ le 2 h.lostEvents
          ++ le 1 out.length ++ out.flatMap fun e => e.1.bytes ++ le 1 e.2)))))

/-- The anomaly queue: a post joins the newest end while fewer than 64 entries are held and is counted, and is otherwise lost
and counted; the post that ends an empty queue answers a parked WAIT for ANOMALY_PRESENT, and leaves any other parked. TAKE-ANOMALIES answers with the
oldest entries and the number left; TAKE removes them, PEEK keeps them, neither changes the lost count. -/
def Obligations.AnomalyQueuePostsAndTakes : Prop :=
  (∀ (s : State) (a : Anomaly),
    let q := s.anomalies
    let joined : State := { s with anomalies := { q with entries := q.entries ++ [a], posted := satInc max32 q.posted } }
    (q.entries.length < 64 → q.entries ≠ [] ∨ (∀ tag timer, s.link.parked ≠ some ⟨tag, .anomalyPresent, timer⟩) →
      s.post a = joined) ∧
    (∀ tag timer, q.entries = [] → s.link.parked = some ⟨tag, .anomalyPresent, timer⟩ → s.post a = { joined with
      link := { s.link with
        parked := none, tx := s.link.tx ++ [(⟨0x15, tag, .ok, le 1 1, false, false⟩ : Reply)] } }) ∧
    (64 ≤ q.entries.length → s.post a = { s with anomalies := { q with lost := satInc max16 q.lost } })) ∧
  (∀ (tag : Byte) (count : Nat) (take : Bool) (s : State), s.Serves →
    let c : Instr := if take then .takeAnomaliesTake tag count else .takeAnomaliesPeek tag count
    let q := s.anomalies
    let out := q.entries.take count
    let left := if take then q.entries.drop count else q.entries
    (count = 0 ∨ 32 < count → exec c s = .next (s.answered (.takeAnomalies count take) 0x12 tag .badArgument [])) ∧
    (1 ≤ count → count ≤ 32 → exec c s = .next
      { s.answered (.takeAnomalies count take) 0x12 tag .ok
          (le 1 left.length ++ le 2 q.lost ++ le 1 out.length ++ out.flatMap Anomaly.bytes) with
        anomalies := { q with entries := left } }))

/-! ## The service link -/

/-- Every request meets the queue of four and then the common tests: with four queued it is discarded and counted; behind
others it waits at the tail with its arrival tick; served at once (log 7) it is answered UNKNOWN_REQUEST for a kind outside
the catalogue, RETRY during recovery except for IDENTIFY, BAD_ARGUMENT for a body that cannot be read (an IDENTIFY's also
during recovery, whose kind the recovery test excepts), and REFUSED_STATE in HOLDUP for the requests that use the store and
for the budget and ADC settings. -/
def Obligations.RequestMeetsQueueAndCommonTests : Prop :=
  ∀ (c : Instr) (req : Request) (tag : Byte) (s : State), c.request = some (req, tag) →
    (4 ≤ s.link.queue.length → exec c s = .next { s with link := { s.link with
      counters := { s.link.counters with queueFull := satInc max16 s.link.counters.queueFull } } }) ∧
    (s.link.queue.length < 4 → s.link.server ≠ .free → exec c s = .next { s with link := { s.link with
      queue := s.link.queue ++ [(⟨req, tag, s.tick, s.wrap⟩ : Queued)]
      counters := { s.link.counters with queued := satInc max32 s.link.counters.queued } } }) ∧
    (s.LinkFree →
      (∀ kind, req = .unknown kind → exec c s = .next (s.answered req kind tag .unknownRequest [])) ∧
      (s.recovering = true → req ≠ .identify → req ≠ .malformed 1 → (∀ kind, req ≠ .unknown kind) →
        exec c s = .next (s.answered req req.kind tag .retry [])) ∧
      (∀ kind, s.recovering = false ∨ kind = 1 → req = .malformed kind →
        exec c s = .next (s.answered req kind tag .badArgument [])) ∧
      (s.recovering = false → s.monitor.power = .holdup →
        ((∃ q o l, req = .readRecord q o l) ∨ (∃ f n, req = .listRecords f n) ∨ (∃ q, req = .verify q) ∨
          (∃ u e, req = .release u e) ∨ req = .saveConfig ∨ req = .format ∨
          (∃ v w x y z r, req = .configure (.budget v w x y z r)) ∨ (∃ w x y z, req = .configure (.adc w x y z))) →
        exec c s = .next (s.answered req req.kind tag .refusedState [])))

/-- The layout of the request frames: for every well-formed request, the frame of its kind and its body is read back as
exactly that request (log 7, log 30; a SET-TIME CLEAR has all 13 bytes, log 29). -/
def Obligations.FrameSpellsRequest : Prop :=
  ∀ (c : Instr) (req : Request) (tag : Byte) (kind : Nat) (body : List Byte), c.wellFormed = true →
    c.request = some (req, tag) → c.frame = some (kind, body) → Request.ofFrame kind body = req

/-- SERVICE_LINE_BYTE. The receiver's states and the discards, each counted under its cause; and the end of a frame: one that
holds the kind, the tag, the length, the body and the CRC-16 of a well-formed request does exactly what that request's
command does, its arrival and its service in one step (the model's choice, log 7). -/
def Obligations.ServiceLineReceivesFrames : Prop :=
  ∀ (b : Byte) (s : State),
    let l := s.link
    let k := l.counters
    let at_ (rx : LinkRx) (gathered : List Byte) (escape : Bool) : State :=
      { s with link := { l with rx := rx, gathered := gathered, escape := escape } }
    let dropped (rx : LinkRx) (k : LinkCounters) : State :=
      { s with link := { l with rx := rx, gathered := [], escape := false, counters := k } }
    let length : LinkCounters := { k with lengthErrors := satInc max16 k.lengthErrors }
    let good := exec (.serviceLineByte b true) s
    (l.rx = .hunting → exec (.serviceLineByte b false) s = .next s) ∧
    (l.rx ≠ .hunting → exec (.serviceLineByte b false) s = .next
      (dropped .hunting { k with lineErrors := satInc max16 k.lineErrors })) ∧
    (l.rx = .hunting → b = 0x7E → good = .next (at_ .between l.gathered l.escape)) ∧
    (l.rx = .hunting → b ≠ 0x7E → good = .next s) ∧
    (l.rx = .between → b = 0x7E → good = .next s) ∧
    (l.rx = .between → b = 0x7D → good = .next (at_ .gathering [] true)) ∧
    (l.rx = .between → b ≠ 0x7E → b ≠ 0x7D → good = .next (at_ .gathering [b] false)) ∧
    (l.rx = .gathering → l.escape = true → b ≠ 0x5E → b ≠ 0x5D → good = .next
      (dropped (if b = 0x7E then .between else .hunting) { k with stuffingErrors := satInc max16 k.stuffingErrors })) ∧
    (∀ stored, l.rx = .gathering → (l.escape = true ∧ b = 0x5E ∧ stored = 0x7E) ∨
        (l.escape = true ∧ b = 0x5D ∧ stored = 0x7D) ∨
        (l.escape = false ∧ b ≠ 0x7E ∧ b ≠ 0x7D ∧ stored = b) →
      (l.gathered.length < 1030 → good = .next (at_ .gathering (l.gathered ++ [stored]) false)) ∧
      (1030 ≤ l.gathered.length → good = .next (dropped .hunting length))) ∧
    (l.rx = .gathering → l.escape = false → b = 0x7D → good = .next (at_ .gathering l.gathered true)) ∧
    (l.rx = .gathering → l.escape = false → b = 0x7E →
      let n := (l.gathered.getD 2 0).toNat + 256 * (l.gathered.getD 3 0).toNat
      (l.gathered.length < 6 ∨ 1024 < n ∨ l.gathered.length ≠ n + 6 → good = .next (dropped .between length)) ∧
      (l.gathered.length = n + 6 → n ≤ 1024 → crc16 l.gathered ≠ 0 → good = .next
        (dropped .between { k with crcErrors := satInc max16 k.crcErrors })) ∧
      (∀ c req tag kind body, Instr.wellFormed c = true → c.request = some (req, tag) → c.frame = some (kind, body) →
        let front := BitVec.ofNat 8 kind :: tag :: (le 2 body.length ++ body)
        l.gathered = front ++ crcBytes front → good = exec c (dropped .between k)))

/-- IDENTIFY, in every state of the part, and STATUS answer OK with the layout of Formats, field by field (absent values 0,
log 32), and change nothing else. -/
def Obligations.IdentifyAndStatusReport : Prop :=
  (∀ (tag : Byte) (s : State), s.LinkFree →
    ∃ body, exec (.identify tag) s = .next (s.answered .identify 0x01 tag .ok body) ∧ Lays body 31
      [(0, 2, 0x0051), (2, 2, 0x0416), (4, 1, 1), (5, 4, s.link.bitRate),
        (9, 1, match s.lastReset with | .powerOn => 1 | .restart => 2), (10, 1, if s.recovering then 1 else 2),
        (11, 4, s.imageSeq), (15, 1, 16), (16, 1, 6), (17, 1, 64), (18, 2, 512), (20, 2, 2048), (22, 1, 128),
        (23, 2, 1024), (25, 2, 256), (27, 1, 64), (28, 1, 4), (29, 2, 1024)]) ∧
  (∀ (tag : Byte) (s : State), s.Serves →
    ∃ body, exec (.status tag) s = .next (s.answered .status 0x02 tag .ok body) ∧ Lays body 70
      [(0, 1, match s.epoch.state with | .watch => 1 | .capture => 2 | .flush => 3 | .closed => 4),
        (1, 2, s.epoch.number), (3, 1, s.epoch.openCause.code), (4, 1, s.epoch.openCause.arg),
        (5, 1, s.epoch.flushCause.code), (6, 1, s.epoch.flushCause.arg), (7, 1, s.history.frozen.toNat),
        (8, 1, match s.monitor.power with | .main => 1 | .holdup => 2), (9, 4, s.budget.energy),
        (13, 4, s.budget.available), (17, 1, match s.writer.state with
          | .idle => 1 | .selecting => 2 | .programming => 3 | .closing => 4 | .fault => 5),
        (18, 1, s.queue.length), (19, 1, s.port.fault.toNat), (20, 4, (s.writer.inFlight.map InFlight.seq).getD 0),
        (24, 4, s.store.tail), (28, 4, s.store.erasedRun), (32, 4, (s.store.oldest.map Prod.fst).getD 0),
        (36, 4, s.store.releasedEnd.getD 0), (40, 4, s.store.lastSeq), (44, 2, s.store.lastEpoch),
        (46, 1, s.store.low.toNat + 2 * s.store.exhausted.toNat), (47, 2, s.freeList.length),
        (49, 2, s.poolReserve.active), (51, 1, s.anomalies.entries.length), (52, 2, s.anomalies.lost),
        (54, 4, (((s.history.ring ++ s.history.list).getLast?).map HEntry.seq).getD 0),
        (58, 2, s.history.list.length), (60, 1, 1), (61, 1, s.link.parked.isSome.toNat), (62, 6, s.tick),
        (68, 2, s.wrap)])

/-- SET-TIME pairs the wall clock with the tick and wrap count of its arrival, also when it is taken from the queue later, or
clears the anchor, and its reply carries the arrival tick; GET-TIME answers with the
tick, the anchor and the present time computed from it. (The present time where the reply's fields can hold it; elsewhere it
is a free value, log 5; an absent anchor reads 0, log 32.) -/
def Obligations.TimeRequestsKeepAnchor : Prop :=
  (∀ (tag : Byte) (seconds micros : Nat) (s : State), s.Serves →
    (999999 < micros → exec (.setTimeSet tag seconds micros) s = .next
      (s.answered (.setTime seconds micros) 0x06 tag .badArgument [])) ∧
    (micros ≤ 999999 → exec (.setTimeSet tag seconds micros) s = .next
      { s.answered (.setTime seconds micros) 0x06 tag .ok (le 6 s.tick ++ le 1 s.anchor.isSome.toNat) with
        anchor := some ⟨seconds, micros, s.tick, s.wrap⟩ })) ∧
  (∀ (tag : Byte) (s : State), s.Serves → exec (.setTimeClear tag) s = .next
    { s.answered .clearTime 0x06 tag .ok (le 6 s.tick ++ le 1 s.anchor.isSome.toNat) with anchor := none }) ∧
  (∀ (s : State) (q : Queued) (rest : List Queued), s.link.queue = q :: rest → s.recovering = false →
    let ok := s.replied 0x06 q.tag .ok (le 6 q.tick ++ le 1 s.anchor.isSome.toNat) false
    (∀ seconds micros, q.req = .setTime seconds micros →
      (999999 < micros → s.serve q = s.replied 0x06 q.tag .badArgument [] false) ∧
      (micros ≤ 999999 → s.serve q = { ok with anchor := some ⟨seconds, micros, q.tick, q.wrap⟩ })) ∧
    (q.req = .clearTime → s.serve q = { ok with anchor := none })) ∧
  (∀ (s : State) (r : Reply) (more : List Reply) (served q : Queued) (later : List Queued) (a b : Bool),
    s.link.tx = r :: more → r.server = true → r.reset = false → s.link.queue = served :: q :: later →
    s.recovering = false → ∃ t, exec (.replySent a b) s = .next t ∧
      (∀ seconds micros, q.req = .setTime seconds micros → micros ≤ 999999 →
        t.anchor = some ⟨seconds, micros, q.tick, q.wrap⟩ ∧ t.tick = s.tick)) ∧
  (∀ (tag : Byte) (s : State), s.Serves →
    ∃ body used, exec (.getTime tag) s = .next { s.answered .getTime 0x07 tag .ok body with freeIndex := used } ∧
      (s.anchor = none → used = s.freeIndex ∧
        Lays body 42 [(0, 6, s.tick), (6, 2, s.wrap), (8, 1, 0), (9, 20, 0), (29, 12, 0), (41, 1, 0)]) ∧
      (∀ a, s.anchor = some a → Lays body 42
        [(0, 6, s.tick), (6, 2, s.wrap), (8, 1, 1), (9, 8, a.seconds), (17, 4, a.microseconds), (21, 6, a.tick),
          (27, 2, a.wrap), (41, 1, if 65535 ≤ s.wrap then 1 else 0)]) ∧
      (∀ (a : Anchor) (present : Nat), s.anchor = some a → present < 2 ^ 64 * 1000000 →
        (present : Int) = ((s.wrap : Int) - a.wrap) * 2 ^ 48 + s.tick - a.tick + a.seconds * 1000000 + a.microseconds →
        used = s.freeIndex ∧ fieldOf body 29 8 = present / 1000000 ∧ fieldOf body 37 4 = present % 1000000))

/-- READ-CONFIG answers OK with the active entry, the pending flag, the pending entry (the active one again where none is
pending) and the live fields of its target, and changes nothing; the index 65535 answers with the body of every lane, or of
every line, one after another; an index or a run outside the table is BAD_ARGUMENT. -/
def Obligations.ReadConfigReportsTargets : Prop :=
  ∀ (tag : Byte) (s : State), s.Serves →
    let ok (c : Instr) (r : ConfigRead) (body : List Byte) : Prop :=
      exec c s = .next (s.answered (.readConfig r) 0x04 tag .ok body)
    let bad (c : Instr) (r : ConfigRead) : Prop := exec c s = .next (s.answered (.readConfig r) 0x04 tag .badArgument [])
    let slot : Slot → Nat × Nat × Nat
      | .empty => (0, 0, 0) | .filling b => (1, b.length, 0) | .held b => (2, 0, (b.getD 0 0).toNat)
    let timer (t : Option Nat) : Nat := t.getD 4294967295
    let power := match s.monitor.power with | .main => 1 | .holdup => 2
    (∀ i : LaneNo, ∃ body, ok (.readConfigLane tag i.val) (.lane i.val) body ∧
      let l := s.lane i
      let flags := l.settings.parityEven.toNat + 2 * l.settings.report.toNat
      Lays body 19 [(0, 1, l.settings.mode.code), (1, 2, l.settings.divisor), (3, 1, flags), (4, 1, 0),
        (5, 1, l.settings.mode.code), (6, 2, l.settings.divisor), (8, 1, flags), (9, 1, l.rx.code),
        (10, 1, (slot l.slot0).1), (11, 2, (slot l.slot0).2.1), (13, 1, (slot l.slot0).2.2), (14, 1, (slot l.slot1).1),
        (15, 2, (slot l.slot1).2.1), (17, 1, (slot l.slot1).2.2), (18, 1, l.ready.toNat)]) ∧
    (∃ body, ok (.readConfigLane tag 65535) (.lane 65535) body ∧ body.length = 16 * 19 ∧
      ∀ (i : LaneNo) (one : List Byte), ok (.readConfigLane tag i.val) (.lane i.val) one →
        (body.drop (19 * i.val)).take 19 = one) ∧
    (∀ index, 15 < index → index ≠ 65535 → bad (.readConfigLane tag index) (.lane index)) ∧
    (∀ i : LineNo, ∃ body, ok (.readConfigTrigger tag i.val) (.trigger i.val) body ∧
      let l := s.line i
      Lays body 12 [(0, 1, l.settings.activeHigh.toNat), (1, 1, l.settings.filterCode), (2, 1, l.settings.prescale),
        (3, 1, l.settings.mode.code), (4, 1, 0), (5, 1, l.settings.activeHigh.toNat), (6, 1, l.settings.filterCode),
        (7, 1, l.settings.prescale), (8, 1, l.settings.mode.code), (9, 1, l.level.toNat),
        (10, 1, match l.run with | none => 0 | some r => 1 + r.1.toNat), (11, 1, l.count)]) ∧
    (∃ body, ok (.readConfigTrigger tag 65535) (.trigger 65535) body ∧ body.length = 6 * 12 ∧
      ∀ (i : LineNo) (one : List Byte), ok (.readConfigTrigger tag i.val) (.trigger i.val) one →
        (body.drop (12 * i.val)).take 12 = one) ∧
    (∀ index, 5 < index → index ≠ 65535 → bad (.readConfigTrigger tag index) (.trigger index)) ∧
    (∀ d, d < 64 → ∃ body, ok (.readConfigDomain tag d) (.domain d) body ∧
      let p := s.domainEntry d
      let q := p.pending.getD p.active
      Lays body 9 [(0, 1, p.active.valid.toNat + 2 * p.active.opensEpoch.toNat), (1, 2, p.active.base),
        (3, 1, p.active.spanExponent), (4, 1, p.pending.isSome.toNat), (5, 1, q.valid.toNat + 2 * q.opensEpoch.toNat),
        (6, 2, q.base), (8, 1, q.spanExponent)]) ∧
    (∀ d, 63 < d → bad (.readConfigDomain tag d) (.domain d)) ∧
    (∃ body, ok (.readConfigPrimary tag) .primary body ∧
      let p := s.primary
      let q := p.pending.getD p.active
      Lays body 9 [(0, 1, p.active.enabled.toNat + 2 * p.active.opensEpoch.toNat), (1, 1, p.active.domain),
        (2, 1, p.active.spanExponent), (3, 1, 0), (4, 1, p.pending.isSome.toNat),
        (5, 1, q.enabled.toNat + 2 * q.opensEpoch.toNat), (6, 1, q.domain), (7, 1, q.spanExponent), (8, 1, 0)]) ∧
    (∀ first count, 1 ≤ count → count ≤ 64 → first + count ≤ 512 →
      ∃ body, ok (.readConfigStreams tag first count) (.streams first count) body ∧ body.length = 5 * count ∧
        ∀ k, k < count →
          let p := (s.stream (first + k)).settings
          let q := p.pending.getD p.active
          Lays ((body.drop (5 * k)).take 5) 5 [(0, 1, p.active.enabled.toNat), (1, 1, p.active.blockLimit),
            (2, 1, p.pending.isSome.toNat), (3, 1, q.enabled.toNat), (4, 1, q.blockLimit)]) ∧
    (∀ first count, count = 0 ∨ 64 < count ∨ 512 < first + count →
      bad (.readConfigStreams tag first count) (.streams first count)) ∧
    (∃ body, ok (.readConfigAging tag) .aging body ∧
      let p := s.aging
      let q := p.pending.getD p.active
      Lays body 15 [(0, 2, p.active.first), (2, 2, p.active.last), (4, 1, p.active.interval), (5, 1, p.active.limit),
        (6, 1, p.pending.isSome.toNat), (7, 2, q.first), (9, 2, q.last), (11, 1, q.interval), (12, 1, q.limit),
        (13, 2, s.cursor)]) ∧
    (∃ body, ok (.readConfigPool tag) .pool body ∧ Lays body 7 [(0, 2, s.poolReserve.active),
      (2, 1, s.poolReserve.pending.isSome.toNat), (3, 2, s.poolReserve.pending.getD s.poolReserve.active),
      (5, 2, s.freeList.length)]) ∧
    (∃ body, ok (.readConfigBudget tag) .budget body ∧
      let b := s.budget
      let c := b.settings
      Lays body 45 [(0, 2, c.scale), (2, 2, c.capacitance), (4, 2, c.floor), (6, 4, c.reserve), (10, 2, c.pageCost),
        (12, 1, c.ceiling), (13, 1, 0), (14, 2, c.scale), (16, 2, c.capacitance), (18, 2, c.floor), (20, 4, c.reserve),
        (24, 2, c.pageCost), (26, 1, c.ceiling), (27, 2, s.monitor.codeUsed * c.scale / 4096), (29, 4, b.energy),
        (33, 2, b.outstanding), (35, 4, c.pageCost * b.outstanding), (39, 4, b.available), (43, 1, power),
        (44, 1, b.exhaustionMade.toNat)]) ∧
    (∃ body, ok (.readConfigAdc tag) .adc body ∧
      let m := s.monitor
      let c := m.settings
      Lays body 28 [(0, 1, c.interval), (1, 2, c.failThreshold), (3, 2, c.restoreThreshold), (5, 1, c.count), (6, 1, 0),
        (7, 1, c.interval), (8, 2, c.failThreshold), (10, 2, c.restoreThreshold), (12, 1, c.count), (13, 1, power),
        (14, 1, m.run), (15, 2, m.lastA1), (17, 2, m.codes.getD 0 0), (19, 2, m.codes.getD 1 0),
        (21, 2, m.codes.getD 2 0), (23, 2, m.codes.getD 3 0), (25, 2, m.codeUsed), (27, 1, m.scansSeen)]) ∧
    (∃ body, ok (.readConfigEpoch tag) .epoch body ∧
      let e := s.epoch
      let c := e.settings
      Lays body 59 [(0, 2, c.window), (2, 1, c.quiet), (3, 1, c.grace), (4, 1, c.holdupGrace), (5, 1, c.powerOpens.toNat),
        (6, 1, if c.autoRearm then 1 else 2), (7, 2, c.closeReserve), (9, 1, 0), (10, 2, c.window), (12, 1, c.quiet),
        (13, 1, c.grace), (14, 1, c.holdupGrace), (15, 1, c.powerOpens.toNat), (16, 1, if c.autoRearm then 1 else 2),
        (17, 2, c.closeReserve), (19, 1, e.state.code), (20, 2, e.number), (22, 1, e.openCause.code),
        (23, 1, e.openCause.arg), (24, 1, e.flushCause.code), (25, 1, e.flushCause.arg), (26, 6, e.openTick),
        (32, 6, e.flushTick), (38, 4, timer e.windowTimer), (42, 4, timer e.quietTimer), (46, 4, timer e.graceTimer),
        (50, 1, e.streamsClosed.toNat), (51, 1, s.history.frozen.toNat), (52, 2, e.tally.written), (54, 2, e.tally.lost),
        (56, 2, e.tally.admitted), (58, 1, e.tally.history.toNat)])

/-- CONFIGURE of the targets of the pending-copy rule: DOMAIN, PRIMARY, STREAMS, AGING and POOL. A refused write changes
nothing; a write that passes its checks becomes the pending copy in CAPTURE and FLUSH (PENDING), and the active value
otherwise (APPLIED), with its effects on BARRED and on the sweep. (An enabled byte above 1 is BAD_ARGUMENT by log 29.) -/
def Obligations.ConfigurePendingCopies : Prop :=
  ∀ (tag : Byte) (s : State), s.Serves →
    let held := s.epoch.state = .capture ∨ s.epoch.state = .flush
    let passed (w : ConfigWrite) : State :=
      s.answered (.configure w) 0x03 tag (if held then .pending else .applied) []
    let refused (w : ConfigWrite) (status : Status) : Host.Outcome State Fault Refusal :=
      .next (s.answered (.configure w) 0x03 tag status [])
    let meets (b₁ n₁ b₂ n₂ : Nat) : Prop := ∃ x, b₁ ≤ x ∧ x < b₁ + n₁ ∧ b₂ ≤ x ∧ x < b₂ + n₂
    let entry (d : Nat) : DomainEntry := (s.domainEntry d).pending.getD (s.domainEntry d).active
    let primary : Primary := s.primary.pending.getD s.primary.active
    (∀ (d : Nat) (valid opens : Bool) (base k : Nat),
      let c : Instr := .configureDomain tag d valid opens base k
      let w : ConfigWrite := .domain d valid opens base k
      let clash := valid = true ∧ ((∃ e, e < 64 ∧ e ≠ d ∧ (entry e).valid = true ∧
          meets base (2 ^ k) (entry e).base (2 ^ (entry e).spanExponent)) ∨
        (primary.enabled = true ∧ meets base (2 ^ k) 0 (2 ^ primary.spanExponent)))
      let bad := 63 < d ∨ 9 < k ∨ 511 < base ∨ 512 < base + 2 ^ k
      (bad → exec c s = refused w .badArgument) ∧ (¬ bad → clash → exec c s = refused w .overlap) ∧
      (¬ bad → ¬ clash → ∃ domains, exec c s = .next { passed w with domains := domains } ∧
        (∀ e, e ≠ d → domains.getD e ⟨⟨false, false, 0, 0⟩, none⟩ = s.domainEntry e) ∧
        domains.getD d ⟨⟨false, false, 0, 0⟩, none⟩ = if held
          then { s.domainEntry d with pending := some ⟨valid, opens, base, k⟩ }
          else ⟨⟨valid, opens, base, k⟩, none⟩)) ∧
    (∀ (enabled opens : Bool) (d k : Nat),
      let c : Instr := .configurePrimary tag enabled opens d k
      let w : ConfigWrite := .primary enabled opens d k
      let clash := enabled = true ∧ ∃ e, e < 64 ∧ (entry e).valid = true ∧
        meets 0 (2 ^ k) (entry e).base (2 ^ (entry e).spanExponent)
      (63 < d ∨ 9 < k → exec c s = refused w .badArgument) ∧
      (d ≤ 63 → k ≤ 9 → clash → exec c s = refused w .overlap) ∧
      (d ≤ 63 → k ≤ 9 → ¬ clash → exec c s = .next { passed w with primary :=
        if held then { s.primary with pending := some ⟨enabled, opens, d, k⟩ } else ⟨⟨enabled, opens, d, k⟩, none⟩ })) ∧
    (∀ first count enabled limit : Nat,
      let c : Instr := .configureStreams tag first count enabled limit
      let w : ConfigWrite := .streams first count enabled limit
      let bad := count = 0 ∨ 512 < first + count ∨ 1 < enabled ∨ 255 < limit
      let new : StreamSettings := ⟨decide (enabled = 1), if limit = 0 then 256 else limit⟩
      (bad → exec c s = refused w .badArgument) ∧
      (¬ bad → ∃ streams, exec c s = .next { passed w with streams := streams } ∧
        (∀ i, i < 512 → i < first ∨ first + count ≤ i → (passed w).streams.list[i]? = streams.list[i]?) ∧
        (∀ i t, first ≤ i → i < first + count → s.streams.list[i]? = some t → streams.list[i]? = some
          (if held then { t with settings := { t.settings with pending := some new } }
          else if new.enabled = t.settings.active.enabled then { t with settings := ⟨new, none⟩ }
          else { t with
            settings := ⟨new, none⟩, state := if new.enabled then .idle else .barred
            record := ⟨0, 1, [], 0, 0, false, 0, 0, 0, 0, ⟨0, 0⟩⟩ })))) ∧
    (∀ first last interval limit : Nat,
      let c : Instr := .configureAging tag first last interval limit
      let w : ConfigWrite := .aging first last interval limit
      let new : AgingSettings := ⟨first, min last 511, interval, limit⟩
      let old := s.aging.active
      let bad := 511 < first ∨ min last 511 < first ∨ limit = 0 ∨ 255 < limit ∨ 255 < interval
      let same := new.first = old.first ∧ new.last = old.last ∧ interval = old.interval
      (bad → exec c s = refused w .badArgument) ∧
      (¬ bad → held → exec c s = .next { passed w with aging := { s.aging with pending := some new } }) ∧
      (¬ bad → ¬ held → exec c s = .next { passed w with
        aging := ⟨new, none⟩
        cursor := if same then s.cursor else first
        sweepTimer := if same then s.sweepTimer
          else if duration interval = 0 then none else some (duration interval * 100) })) ∧
    (∀ reserve : Nat, exec (.configurePool tag reserve) s = .next { passed (.pool reserve) with poolReserve :=
      if held then { s.poolReserve with pending := some (min reserve 1024) } else ⟨min reserve 1024, none⟩ })

/-- CONFIGURE of the targets that are applied at once: LANE, TRIGGER, BUDGET, ADC and EPOCH. A refused write changes nothing;
a write that passes its checks takes effect with status APPLIED. A lane starts anew in its mode, each fragment in its slots
counted ABORTED under the settings before, and reported with LANE_ERROR where those say so (a parked WAIT that such a report
resolves is answered before the request, log 15); a trigger line takes the input's
level; the estimate is recomputed; the comparator count is 0; LOW is recomputed with the new close reserve. (A power-opens
byte above 1 is BAD_ARGUMENT by log 29.) -/
def Obligations.ConfigureAtOnce : Prop :=
  ∀ (tag : Byte) (s : State), s.Serves →
    let applied (w : ConfigWrite) : State := s.answered (.configure w) 0x03 tag .applied []
    let refused (w : ConfigWrite) (status : Status) : Host.Outcome State Fault Refusal :=
      .next (s.answered (.configure w) 0x03 tag status [])
    (∀ (index mode divisor : Nat) (even report : Bool),
      let c : Instr := .configureLane tag index mode divisor even report
      let w : ConfigWrite := .lane index mode divisor even report
      (15 < index ∨ 2 < mode ∨ divisor < 16 ∨ 65535 < divisor → exec c s = refused w .badArgument) ∧
      (∀ (i : LaneNo) (m : LaneMode), i.val = index → m.code = mode → 16 ≤ divisor → divisor ≤ 65535 →
        let l := s.lane i
        let rx := match m with
          | .off => LaneRx.off
          | .clocked => if l.select then .skipping else .waiting
          | .async => .skipping
        let lost := (if l.slot0 = .empty then 0 else 1) + if l.slot1 = .empty then 0 else 1
        let n := l.counters.aborted + lost
        let aborted := if n ≤ 65535 then n else max 65535 l.counters.aborted
        let anew : Lane := ⟨⟨m, divisor, even, report⟩, rx, false, [], .empty, .empty, l.select,
          { l.counters with aborted := aborted }⟩
        let started (u : State) : State := { u.setLane i anew with
          heldOrder := s.heldOrder.filter fun h => decide (h.1 ≠ i) }
        let once := (s.received (.configure w) tag).post ⟨.laneError, some i.val, none, none, s.tick, 8⟩
        let reported := if lost = 1 then once else once.post ⟨.laneError, some i.val, none, none, s.tick, 8⟩
        (l.settings.report = false ∨ lost = 0 → exec c s = .next (started (applied w))) ∧
        (l.settings.report = true → lost ≠ 0 →
          exec c s = .next (started (reported.replied 0x03 tag .applied [] false))))) ∧
    (∀ index polarity filterCode prescale mode : Nat,
      let c : Instr := .configureTrigger tag index polarity filterCode prescale mode
      let w : ConfigWrite := .trigger index polarity filterCode prescale mode
      (5 < index ∨ 1 < polarity ∨ 15 < filterCode ∨ prescale ∉ [1, 2, 4, 8] ∨ 3 < mode →
        exec c s = refused w .badArgument) ∧
      (∀ (i : LineNo) (m : TriggerMode), i.val = index → m.code = mode → polarity ≤ 1 → filterCode ≤ 15 →
        prescale ∈ [1, 2, 4, 8] → exec c s = .next ((applied w).setLine i { s.line i with
          settings := ⟨decide (polarity = 1), filterCode, prescale, m⟩, level := (s.line i).input, run := none
          count := 0 }))) ∧
    (∀ scale capacitance floor reserve pageCost ceiling : Nat,
      let c : Instr := .configureBudget tag scale capacitance floor reserve pageCost ceiling
      let w : ConfigWrite := .budget scale capacitance floor reserve pageCost ceiling
      let bad := scale < 1000 ∨ 20000 < scale ∨ capacitance = 0 ∨ 65535 < capacitance ∨ 20000 < floor
        ∨ 4294967295 < reserve ∨ 65535 < pageCost
      let new : BudgetSettings := ⟨scale, capacitance, floor, reserve, max pageCost 1, min ceiling 3⟩
      (s.monitor.power = .holdup → exec c s = refused w .refusedState) ∧
      (s.monitor.power = .main → bad → exec c s = refused w .badArgument) ∧
      (s.monitor.power = .main → ¬ bad → exec c s = .next { applied w with budget := { s.budget with
        settings := new, energy := energyOf new (voltage s.monitor.codeUsed scale) } })) ∧
    (∀ interval fail restore count : Nat,
      let c : Instr := .configureAdc tag interval fail restore count
      let w : ConfigWrite := .adc interval fail restore count
      let bad := 4095 < fail ∨ 4095 < restore ∨ restore ≤ fail ∨ count = 0 ∨ 8 < count ∨ 255 < interval
      let time (code : Nat) : Nat := max 1 (duration code) * 100
      (s.monitor.power = .holdup → exec c s = refused w .refusedState) ∧
      (s.monitor.power = .main → bad → exec c s = refused w .badArgument) ∧
      (s.monitor.power = .main → ¬ bad → exec c s = .next { applied w with monitor := { s.monitor with
        settings := ⟨interval, fail, restore, count⟩, run := 0
        scanTimer := if time interval = time s.monitor.settings.interval then s.monitor.scanTimer
          else s.monitor.scanTimer.map fun _ => time interval } })) ∧
    (∀ window quiet grace holdupGrace powerOpens policy reserve : Nat,
      let c : Instr := .configureEpoch tag window quiet grace holdupGrace powerOpens policy reserve
      let w : ConfigWrite := .epoch window quiet grace holdupGrace powerOpens policy reserve
      let bad := 65535 < window ∨ 255 < quiet ∨ 255 < grace ∨ 255 < holdupGrace ∨ 1 < powerOpens ∨ policy ∉ [1, 2]
        ∨ reserve < 8 ∨ 1024 < reserve
      (s.epoch.state = .capture ∨ s.epoch.state = .flush → exec c s = refused w .refusedState) ∧
      (s.epoch.state = .watch ∨ s.epoch.state = .closed → bad → exec c s = refused w .badArgument) ∧
      (s.epoch.state = .watch ∨ s.epoch.state = .closed → ¬ bad → exec c s = .next { applied w with
        epoch := { s.epoch with settings :=
          ⟨window, quiet, grace, holdupGrace, decide (powerOpens = 1), decide (policy = 1), reserve⟩ }
        store := { s.store with low := decide (s.store.erasedRun + s.erasable < reserve + 255) } }) ∧
      (s.monitor.power = .holdup → s.erasable = 0))

/-- READ-STREAM answers with the stream as it stands, in the layout of Formats, and TAKE sets its drop count to 0; a mapping
it reports is one that lookup confirms, and, under the source map's law, an address from which lookup reaches the stream is
the mapping it reports. COUNTERS answers with every counter of a group, and TAKE sets the group to 0 (and
counts its own service after that, log 37). An index outside the table and a group without a code are BAD_ARGUMENT; a group
that has no index ignores it (log 29). -/
def Obligations.StreamAndCounterReports : Prop :=
  ∀ (tag : Byte) (take : Bool) (s : State), s.Serves →
    (∀ i : Nat,
      let c : Instr := if take then .readStreamTake tag i else .readStreamPeek tag i
      let t := s.stream i
      let r := t.record
      let q := t.settings.pending.getD t.settings.active
      (511 < i → exec c s = .next (s.answered (.readStream i take) 0x11 tag .badArgument [])) ∧
      (i ≤ 511 → ∃ body, exec c s = .next ((s.answered (.readStream i take) 0x11 tag .ok body).setStream i
          (if take then { t with drops := 0 } else t)) ∧
        Lays body 32 [(0, 1, t.settings.active.enabled.toNat), (1, 1, t.settings.active.blockLimit),
          (2, 1, t.settings.pending.isSome.toNat), (3, 1, q.enabled.toNat), (4, 1, q.blockLimit),
          (5, 1, match t.state with | .idle => 1 | .assembling => 2 | .discarding => 3 | .barred => 4), (6, 1, r.cls),
          (7, 2, r.expected), (9, 2, r.chain.length), (11, 4, r.bytes), (15, 2, r.fragCount), (17, 1, r.gap.toNat),
          (18, 1, r.missing), (19, 6, r.firstTick), (25, 1, r.firstLane), (26, 1, r.age), (27, 1, t.drops),
          (28, 1, match s.mapping i with | none => 0 | some m => 1 + 2 * m.2.1.toNat),
          (29, 1, match s.mapping i with | none => 0 | some m => m.1),
          (30, 2, match s.mapping i with | none => 0 | some m => m.2.2)] ∧
        (∀ d primary unit, s.mapping i = some (d, primary, unit) → ∃ opens, s.lookup ⟨d, unit⟩ = .found i opens) ∧
        (s.MapLawful → ∀ d unit opens, s.lookup ⟨d, unit⟩ = .found i opens →
          s.mapping i = some (d, s.primary.active.enabled && decide (s.primary.active.domain = d), unit)))) ∧
    (∀ (code : Nat) (index : Nat),
      let c : Instr := if take then .countersTake tag code index else .countersPeek tag code index
      let ok (g : CounterGroup) (body : List Byte) : State := s.answered (.counters g index take) 0x14 tag .ok body
      let k := s.reassembly
      let p := s.powerCounters
      let h := s.history
      let v := s.link.counters
      (code = 0 ∨ 9 < code → exec c s = .next (s.answered (.malformed 0x14) 0x14 tag .badArgument [])) ∧
      (code = 1 → 15 < index → exec c s = .next (s.answered (.counters .lane index take) 0x14 tag .badArgument [])) ∧
      (code = 2 → 5 < index → exec c s = .next (s.answered (.counters .trigger index take) 0x14 tag .badArgument [])) ∧
      (∀ i : LaneNo, code = 1 → i.val = index → ∃ body,
        let l := s.lane i
        let n := l.counters
        exec c s = .next ((ok .lane body).setLane i
          (if take then { l with counters := ⟨0, 0, 0, 0, 0, 0, 0, 0, 0, 0⟩ } else l)) ∧
        Lays body 22 [(0, 4, n.accepted), (4, 2, n.framing), (6, 2, n.parity), (8, 2, n.stuffing), (10, 2, n.overrun),
          (12, 2, n.badHeader), (14, 2, n.length), (16, 2, n.check), (18, 2, n.aborted), (20, 2, n.headerWarnings)]) ∧
      (∀ i : LineNo, code = 2 → i.val = index → ∃ body,
        let l := s.line i
        exec c s = .next ((ok .trigger body).setLine i (if take then { l with edges := 0, firings := 0 } else l)) ∧
        Lays body 6 [(0, 4, l.edges), (4, 2, l.firings)]) ∧
      (code = 3 → ∃ body, exec c s = .next { ok .reassembly body with
          reassembly := if take then ⟨0, 0, 0, 0, 0, 0, 0, 0, 0⟩ else k } ∧
        Lays body 36 [(0, 4, k.complete), (4, 4, k.completeGap), (8, 4, k.restarted), (12, 4, k.length), (16, 4, k.pool),
          (20, 4, k.aged), (24, 4, k.flushed), (28, 4, k.admitted), (32, 4, k.dropped)]) ∧
      (code = 4 → ∃ body, exec c s = .next { ok .commit body with
          commit := if take then ⟨0, 0, 0, 0, 0, 0, 0, 0, 0, 0, 0⟩ else s.commit } ∧
        Lays body 28 [(0, 4, s.commit.offered), (4, 2, s.commit.evicted), (6, 2, s.commit.queueFull),
          (8, 2, s.commit.storeFull), (10, 2, s.commit.budget), (12, 2, s.commit.fault), (14, 4, s.commit.written),
          (18, 4, s.commit.pages), (22, 2, s.commit.abandoned), (24, 2, s.commit.flashFaults),
          (26, 2, s.commit.refusedInFault)]) ∧
      (code = 5 → ∃ body, exec c s = .next { ok .power body with
          powerCounters := if take then ⟨0, 0, 0, 0, 0⟩ else p } ∧
        Lays body 14 [(0, 4, p.scans), (4, 2, p.losses), (6, 2, p.restorations), (8, 4, p.refusals),
          (12, 2, p.exhaustions)]) ∧
      (code = 6 → ∃ body, exec c s = .next { ok .history body with
          history := if take then { h with admitted := 0, overwrites := 0, dropped := 0, eventFragments := 0 } else h } ∧
        Lays body 16 [(0, 4, h.admitted), (4, 4, h.overwrites), (8, 4, h.dropped), (12, 4, h.eventFragments)]) ∧
      (code = 7 → ∃ body, exec c s = .next { ok .anomaly body with
          anomalies := if take then { s.anomalies with posted := 0, lost := 0 } else s.anomalies } ∧
        Lays body 6 [(0, 4, s.anomalies.posted), (4, 2, s.anomalies.lost)]) ∧
      (code = 8 → ∃ body, exec c s = .next { ok .store body with
          store := if take then { s.store with tornRecords := 0, lostPages := 0 } else s.store } ∧
        Lays body 4 [(0, 2, s.store.tornRecords), (2, 2, s.store.lostPages)]) ∧
      (code = 9 → ∃ body,
        let answered := ok .link body
        exec c s = .next { answered with link := { answered.link with
          counters := if take then ⟨0, 0, 0, 0, 0, 0, 1, 0, 0, 0, 0⟩ else answered.link.counters } } ∧
        Lays body 28 [(0, 4, satInc max32 v.queued), (4, 2, v.lineErrors), (6, 2, v.stuffingErrors),
          (8, 2, v.lengthErrors), (10, 2, v.crcErrors), (12, 2, v.queueFull), (14, 4, v.served), (18, 4, v.repliesSent),
          (22, 2, v.waitsParked), (24, 2, v.waitsBusy), (26, 2, v.waitTimeouts)]))

/-- The requests that use the flash port, each by its own tests: READ-RECORD, VERIFY and LIST-RECORDS answer at once when
lookup or the log leaves nothing to read, and else claim the read of the page where they begin; RELEASE is refused in FAULT,
by the host's idea of the oldest, and outside its limit, and else claims the mark of the oldest record; SAVE-CONFIG and
FORMAT are refused in FAULT, in CAPTURE and FLUSH (FORMAT also with a live record, log 27), and else claim their first
erase. Where they begin: lookup at the first-record page of the in-use sector with the largest first-record sequence not
above the one asked for, and nowhere when there is none or it is the tail; a listing at the walk start, the first record of
the log, for 0 and for a sequence below the oldest in-use sector's, and else as lookup (where lookup has no sector although
the oldest in-use one has no first record: the walk start, log 49). FORMAT erases from the oldest in-use sector on, or from
the sector after the tail's when there is none or it is the tail's own, in index order, the tail's last. The in-use sectors
stand in the order of their sector sequences. -/
def Obligations.FlashRequestsTestAndClaim : Prop :=
  (∀ s : State,
    (∀ x, x ∈ s.inUse ↔ x.sector < 512 ∧ s.dir x.sector = .inUse x.mark x.firstSeq) ∧
    s.inUse.Pairwise (fun a b => a.mark.seq ≤ b.mark.seq) ∧
    ((∀ x ∈ s.inUse, x.mark.firstRecord = 0) → firstRecordPage s.inUse = none) ∧
    (∀ front x later, s.inUse = front ++ x :: later → (∀ y ∈ front, y.mark.firstRecord = 0) → x.mark.firstRecord ≠ 0 →
      firstRecordPage s.inUse = some (x.sector * 256 + x.mark.firstRecord)) ∧
    (∀ seq : Nat,
      let below (y : InUse) (g : Nat) : Prop := y.firstSeq = some g ∧ g ≤ seq ∧ y.mark.firstRecord ≠ 0
      let belowOldest := seq = 0 ∨ ∃ x f, s.inUse.head? = some x ∧ x.firstSeq = some f ∧ seq < f
      (belowOldest → s.listStart seq = firstRecordPage s.inUse) ∧
      ((∀ y ∈ s.inUse, ∀ g, ¬ below y g) →
        s.lookupStart seq = none ∧ s.listStart seq = firstRecordPage s.inUse) ∧
      (∀ front x later f, s.inUse = front ++ x :: later → below x f → (∀ y ∈ front ++ later, ∀ g, below y g → g < f) →
        let p := x.sector * 256 + x.mark.firstRecord
        (p ≠ s.store.tail → s.lookupStart seq = some p) ∧ (p = s.store.tail → s.lookupStart seq = none) ∧
        (¬ belowOldest → s.listStart seq = some p))) ∧
    (let t := s.store.tail / 256
     1 ≤ t → t < 512 → (∀ m f, s.dir 0 ≠ .inUse m f) → ∀ first,
       (s.inUse = [] ∨ (∃ x, s.inUse.head? = some x ∧ x.sector = t)) ∧ first = t % 511 + 1 ∨
         (∃ x, s.inUse.head? = some x ∧ x.sector ≠ t ∧ first = x.sector) →
       s.formatOrder = ((List.range 511).map fun j => (first - 1 + j) % 511 + 1).filter (fun n => decide (n ≠ t)) ++ [t])) ∧
  ∀ (tag : Byte) (s : State), s.ServesAll →
    let answer (req : Request) (status : Status) (body : List Byte) : Host.Outcome State Fault Refusal :=
      .next (s.answered req req.kind tag status body)
    let answerSettled (c : Instr) (req : Request) (status : Status) (body : List Byte) : Prop :=
      ∃ port, exec c s = .next { s.answered req req.kind tag status body with port := port } ∧
        (s.settlePort = s → port = s.port)
    let claims (c : Instr) (req : Request) (job : Job) (op : FlashOp) : Prop :=
      ∃ t, exec c s = .next t ∧ s.Claims t req tag job op
    let open_ := s.epoch.state = .capture ∨ s.epoch.state = .flush
    (∀ seq offset length : Nat,
      let c : Instr := .readRecord tag seq offset length
      let req : Request := .readRecord seq offset length
      (length = 0 ∨ 1024 < length → exec c s = answer req .badArgument []) ∧
      (1 ≤ length → length ≤ 1024 →
        (s.lookupStart seq = none → answerSettled c req .notFound []) ∧
        (∀ p, s.lookupStart seq = some p →
          claims c req (.readLookup seq offset length p) ⟨.pageRead, p, []⟩))) ∧
    (∀ seq : Nat,
      (s.lookupStart seq = none → answerSettled (.verify tag seq) (.verify seq) .notFound []) ∧
      (∀ p, s.lookupStart seq = some p →
        claims (.verify tag seq) (.verify seq) (.verifyLookup seq p) ⟨.pageRead, p, []⟩)) ∧
    (∀ fromSeq count : Nat,
      let c : Instr := .listRecords tag fromSeq count
      let req : Request := .listRecords fromSeq count
      (count = 0 ∨ 16 < count → exec c s = answer req .badArgument []) ∧
      (1 ≤ count → count ≤ 16 →
        (s.listStart fromSeq = none ∨ s.listStart fromSeq = some s.store.tail → ∃ body, answerSettled c req .ok body ∧
          Lays body 18 [(0, 4, (s.store.oldest.map Prod.fst).getD 0), (4, 4, s.store.releasedEnd.getD 0),
            (8, 4, s.store.lastSeq), (12, 1, 2), (13, 4, fromSeq), (17, 1, 0)]) ∧
        (∀ p, s.listStart fromSeq = some p → p ≠ s.store.tail →
          claims c req (.list fromSeq count p none [] false none) ⟨.pageRead, p, []⟩))) ∧
    (∀ upTo expected : Nat,
      let c : Instr := .release tag upTo expected
      let req : Request := .release upTo expected
      let oldest := (s.store.oldest.map Prod.fst).getD 0
      let limit := if open_ then (s.writer.openMarkSeq.map (· - 1)).getD s.store.lastSeq else s.store.lastSeq
      (s.port.fault = true → exec c s = answer req .refusedState []) ∧
      (s.port.fault = false → oldest ≠ expected → exec c s = answer req .mismatch (le 4 oldest)) ∧
      (s.port.fault = false → oldest = expected → s.store.oldest = none →
        exec c s = answer req .ok (le 4 0 ++ le 4 0)) ∧
      (∀ p, s.port.fault = false → s.store.oldest = some (expected, p) →
        (upTo < expected → exec c s = answer req .badArgument []) ∧
        (expected ≤ upTo → limit < upTo → exec c s = answer req .refusedState []) ∧
        (expected ≤ upTo → upTo ≤ limit →
          let b := s.flashByte (p * 256)
          claims c req (.release upTo 0) ⟨.stateByte, p, [if b = 0x3F ∨ b = 0x1F then 0x0F else 0x00]⟩))) ∧
    (open_ ∨ s.port.fault = true → exec (.saveConfig tag) s = answer .saveConfig .refusedState []) ∧
    (¬ open_ → s.port.fault = false → s.imageSeq < 4294967295 →
      claims (.saveConfig tag) .saveConfig (.save (imageBytes (s.imageSeq + 1) s.settings) 0) ⟨.erase, 0, []⟩) ∧
    (let live := s.store.oldest.isSome = true ∨ ∃ f, s.writer.inFlight = some f ∧ f.start.isSome = true
     (open_ ∨ s.port.fault = true ∨ live → exec (.format tag) s = answer .format .refusedState []) ∧
     (¬ open_ → s.port.fault = false → ¬ live → ∃ t first rest, exec (.format tag) s = .next t ∧
       t.store = { s.store with low := true } ∧
       t.link = { (s.received .format tag).link with server := .working (.format rest) false } ∧
       s.formatOrder = first :: rest ∧ (1 ≤ s.store.tail / 256 → s.store.tail / 256 < 512 →
         (first :: rest).getLast? = some (s.store.tail / 256)) ∧
       (s.port.inFlight = none → s.port.waitWriter = none →
         t.port.inFlight = some ⟨⟨.erase, first * 256, []⟩, .service, some 3000000⟩) ∧
       { t with store := s.store, link := s.link, port := s.port } = s))

/-- The WAIT request is answered BUSY while one is parked, OK at once when its condition holds, and is parked otherwise,
which frees its place; WAIT_TIMEOUT answers the parked one TIMEOUT with the value its condition reads; with none parked or
no timer nothing expires (log 2); a rise of last sequence or a change of the epoch state answers it OK when it satisfies its
condition, and leaves one with another condition parked. -/
def Obligations.WaitParksAndResolves : Prop :=
  ∀ (tag : Byte) (s : State),
    let l := s.link
    let holds : WaitCond → Prop
      | .record a => a < s.store.lastSeq
      | .epochChange x => s.epoch.state ≠ x
      | .anomalyPresent => s.anomalies.entries ≠ []
    let value : WaitCond → List Byte
      | .record _ => le 4 s.store.lastSeq
      | .epochChange _ => le 1 (match s.epoch.state with | .watch => 1 | .capture => 2 | .flush => 3 | .closed => 4)
          ++ le 2 s.epoch.number
      | .anomalyPresent => le 1 s.anomalies.entries.length
    let resolved (t : Byte) (cond : WaitCond) (status : Status) : Link :=
      { l with parked := none, tx := l.tx ++ [(⟨0x15, t, status, value cond, false, false⟩ : Reply)] }
    (∀ (condition argument timeout : Nat) (cond : WaitCond), s.Serves →
      (condition = 1 ∧ cond = .record argument) ∨
        (condition = 2 ∧ ∃ x : EpochState, x.code = argument ∧ cond = .epochChange x) ∨
        (condition = 3 ∧ argument = 0 ∧ cond = .anomalyPresent) →
      let c : Instr := .wait tag condition argument timeout
      let req : Request := .wait cond timeout
      let busy := s.answered req 0x15 tag .busy []
      (l.parked ≠ none → exec c s = .next { busy with link := { busy.link with
        counters := { busy.link.counters with waitsBusy := satInc max16 l.counters.waitsBusy } } }) ∧
      (l.parked = none → holds cond → exec c s = .next (s.answered req 0x15 tag .ok (value cond))) ∧
      (l.parked = none → ¬ holds cond → exec c s = .next { s with link := { l with
        parked := some ⟨tag, cond, if timeout = 0 then none else some (timeout * 1000)⟩
        counters := { l.counters with
          queued := satInc max32 l.counters.queued, served := satInc max32 l.counters.served
          waitsParked := satInc max16 l.counters.waitsParked } } })) ∧
    (∀ (t : Byte) (cond : WaitCond) (left : Nat), l.parked = some ⟨t, cond, some left⟩ →
      exec .waitTimeout s = .next { s with link := { resolved t cond .timeout with
        counters := { l.counters with waitTimeouts := satInc max16 l.counters.waitTimeouts } } }) ∧
    (l.parked = none ∨ (∃ t cond, l.parked = some ⟨t, cond, none⟩) → exec .waitTimeout s = .next s) ∧
    (∀ (t : Byte) (a : Nat) (timer : Option Nat), l.parked = some ⟨t, .record a, timer⟩ →
      s.tellRecord = if a < s.store.lastSeq then { s with link := resolved t (.record a) .ok } else s) ∧
    (∀ (t : Byte) (x : EpochState) (timer : Option Nat), l.parked = some ⟨t, .epochChange x, timer⟩ →
      s.tellEpoch = if s.epoch.state ≠ x then { s with link := resolved t (.epochChange x) .ok } else s) ∧
    ((∀ t a timer, l.parked ≠ some ⟨t, .record a, timer⟩) → s.tellRecord = s) ∧
    ((∀ t x timer, l.parked ≠ some ⟨t, .epochChange x, timer⟩) → s.tellEpoch = s)

/-- The RESTART request is refused in CAPTURE and FLUSH without the force flag and accepted otherwise (a force byte above 1
is BAD_ARGUMENT, log 29). REPLY_SENT: the reply's bytes stand on the line between two delimiters, stuffed (log 36), its kind
byte the request's + 128 modulo 256 (log 11), and are counted; a reply of the server frees its request's place, and the
server takes the request then at the head, and after one that it parks the next, each by the rule by which a free server
takes one that has just arrived (in the same step, log 7); the reply of an accepted RESTART resets the part, which keeps the
timebase and the anchor; everything else is as `State.AfterReset` lists it, with the straps sampled anew (the command's
operands, log 35), the block bytes (log 6) and the commands that wait (log 42) kept, an idle stream's source 0 and 0 (log
44), and the store pointers until recovery by log 8. -/
def Obligations.RestartAndReplySent : Prop :=
  (∀ (tag : Byte) (force : Nat) (s : State), s.Serves →
    let open_ := s.epoch.state = .capture ∨ s.epoch.state = .flush
    (1 < force → exec (.restart tag force) s = .next (s.answered (.malformed 0x16) 0x16 tag .badArgument [])) ∧
    (force = 0 → open_ → exec (.restart tag force) s = .next
      (s.answered (.restart false) 0x16 tag .refusedState [if s.epoch.state = .capture then 2 else 3])) ∧
    (force = 0 → ¬ open_ → exec (.restart tag force) s = .next
      ((s.received (.restart false) tag).replied 0x16 tag .ok [] true)) ∧
    (force = 1 → exec (.restart tag force) s = .next
      ((s.received (.restart true) tag).replied 0x16 tag .ok [] true))) ∧
  (∀ s : State, s.link.tx = [] → ∀ a b, exec (.replySent a b) s = .next s) ∧
  (∀ (s : State) (r : Reply) (rest : List Reply) (first second : Bool), s.link.tx = r :: rest →
    let front := BitVec.ofNat 8 (r.kind + 128) :: r.tag :: (le 1 r.status.code ++ le 2 r.body.length ++ r.body)
    let line := 0x7E :: (stuff (front ++ crcBytes front) ++ [0x7E])
    let sent : Link := { s.link with
      tx := rest, lineOut := line
      counters := { s.link.counters with repliesSent := satInc max32 s.link.counters.repliesSent } }
    let got := exec (.replySent first second) s
    (r.reset = false → r.server = false → got = .next { s with link := sent }) ∧
    (∀ q, r.reset = false → r.server = true → s.link.queue = [q] →
      got = .next { s with link := { sent with queue := [], server := .free } }) ∧
    (∀ q next later, r.reset = false → r.server = true → s.link.queue = q :: next :: later → s.recovering = true →
      next.req = .status → ∃ t, got = .next t ∧ t.link.queue = next :: later ∧
        t.link.server = .replying ∧ t.link.tx = rest ++ [(⟨0x02, next.tag, .retry, [], true, false⟩ : Reply)]) ∧
    (∀ q later, r.reset = false → r.server = true → s.link.queue = q :: later →
      got = .next (State.serveNext later.length { s with link := { sent with queue := later, server := .free } })) ∧
    (r.reset = true → ∃ t, got = .next t ∧ s.AfterReset t first second ∧ t.link.lineOut = line ∧ t.tick = s.tick ∧
      t.wrap = s.wrap ∧ t.anchor = s.anchor ∧ t.lastReset = .restart)) ∧
  (∀ (s : State) (q : Queued) (later : List Queued) (fuel : Nat),
    (s.link.server = .free → s.link.queue = q :: later →
      State.serveNext (fuel + 1) s = State.serveNext fuel (s.serve q)) ∧
    (s.link.server ≠ .free ∨ s.link.queue = [] → State.serveNext fuel s = s) ∧
    (∀ c : Instr, c.request = some (q.req, q.tag) → s.LinkFree → q.tick = s.tick → q.wrap = s.wrap →
      exec c s = .next ((s.received q.req q.tag).serve q)) ∧
    (∀ kind, s.link.queue = q :: later → q.req = .unknown kind → s.serve q = s.replied kind q.tag .unknownRequest [] false) ∧
    (s.link.queue = q :: later → s.recovering = true → q.req ≠ .identify → q.req ≠ .malformed 1 →
      (∀ kind, q.req ≠ .unknown kind) → s.serve q = s.replied q.req.kind q.tag .retry [] false) ∧
    (∀ kind, s.link.queue = q :: later → s.recovering = false ∨ kind = 1 → q.req = .malformed kind →
      s.serve q = s.replied kind q.tag .badArgument [] false))
end

