-- ==== Sys2Proof/Laws/Frame.lean ====
section
/-! SUPPORT. Laws/Frame.lean: what each operation of the part can change. `Only fs s t` says that `t` differs from `s` in the
parts `fs` of the state at most; one lemma for each operation names its parts, and two operations in turn add theirs. -/

namespace Sys2Proof.Machine

/-- The parts of the state that the frame lemmas tell apart. The store's LOW flag, and the service link's queue, server, replies
and parked WAIT, count each by itself; `store` and `link` are the rest of theirs. -/
inductive Part where
  | pending | freeIndex | examDue | straps | lastReset | recovering | tick | wrap | anchor | imageSeq | lanes | heldOrder
  | domains | primary | streams | aging | cursor | sweepTimer | pool | freeList | poolReserve | reassembly | queue | writer
  | commit | port | flash | store | low | directory | monitor | budget | powerCounters | epoch | lines | history | anomalies
  | link | requests | server | tx | parked
  deriving DecidableEq, Repr

/-- Two states agree in a part. -/
def Part.agree (s t : State) : Part → Prop
  | pending => t.pending = s.pending
  | freeIndex => t.freeIndex = s.freeIndex
  | examDue => t.examDue = s.examDue
  | straps => t.strapFirst = s.strapFirst ∧ t.strapSecond = s.strapSecond
  | lastReset => t.lastReset = s.lastReset
  | recovering => t.recovering = s.recovering
  | tick => t.tick = s.tick
  | wrap => t.wrap = s.wrap
  | anchor => t.anchor = s.anchor
  | imageSeq => t.imageSeq = s.imageSeq
  | lanes => t.lanes = s.lanes
  | heldOrder => t.heldOrder = s.heldOrder
  | domains => t.domains = s.domains
  | primary => t.primary = s.primary
  | streams => t.streams = s.streams
  | aging => t.aging = s.aging
  | cursor => t.cursor = s.cursor
  | sweepTimer => t.sweepTimer = s.sweepTimer
  | pool => t.pool = s.pool
  | freeList => t.freeList = s.freeList
  | poolReserve => t.poolReserve = s.poolReserve
  | reassembly => t.reassembly = s.reassembly
  | queue => t.queue = s.queue
  | writer => t.writer = s.writer
  | commit => t.commit = s.commit
  | port => t.port = s.port
  | flash => t.flash = s.flash
  | store => { t.store with low := s.store.low } = s.store
  | low => t.store.low = s.store.low
  | directory => t.directory = s.directory
  | monitor => t.monitor = s.monitor
  | budget => t.budget = s.budget
  | powerCounters => t.powerCounters = s.powerCounters
  | epoch => t.epoch = s.epoch
  | lines => t.lines = s.lines
  | history => t.history = s.history
  | anomalies => t.anomalies = s.anomalies
  | link => { t.link with
      queue := s.link.queue, server := s.link.server, tx := s.link.tx, parked := s.link.parked } = s.link
  | requests => t.link.queue = s.link.queue
  | server => t.link.server = s.link.server
  | tx => t.link.tx = s.link.tx
  | parked => t.link.parked = s.link.parked

theorem Part.agree_refl (s : State) (p : Part) : p.agree s s := by
  cases p <;> first | rfl | exact ⟨rfl, rfl⟩

theorem Part.agree_trans {s t u : State} {p : Part} (h₁ : p.agree s t) (h₂ : p.agree t u) : p.agree s u := by
  cases p
  case straps => exact ⟨h₂.1.trans h₁.1, h₂.2.trans h₁.2⟩
  case store =>
    have h₁' : { t.store with low := s.store.low } = s.store := h₁
    have h₂' : { u.store with low := t.store.low } = t.store := h₂
    show { u.store with low := s.store.low } = s.store
    rw [← h₁', ← h₂']
  case link =>
    have h₁' : { t.link with
      queue := s.link.queue, server := s.link.server, tx := s.link.tx, parked := s.link.parked } = s.link := h₁
    have h₂' : { u.link with
      queue := t.link.queue, server := t.link.server, tx := t.link.tx, parked := t.link.parked } = t.link := h₂
    show { u.link with
      queue := s.link.queue, server := s.link.server, tx := s.link.tx, parked := s.link.parked } = s.link
    rw [← h₁', ← h₂']
  all_goals exact Eq.trans h₂ h₁

/-- `t` differs from `s` in the parts `fs` at most. -/
def Only (fs : List Part) (s t : State) : Prop := ∀ p, p ∉ fs → p.agree s t

theorem Only.refl (fs : List Part) (s : State) : Only fs s s := fun p _ => p.agree_refl s

theorem Only.mono {fs gs : List Part} {s t : State} (h : Only fs s t) (sub : ∀ p ∈ fs, p ∈ gs) : Only gs s t :=
  fun p hp => h p fun hf => hp (sub p hf)

theorem Only.trans {fs : List Part} {s t u : State} (h₁ : Only fs s t) (h₂ : Only fs t u) : Only fs s u :=
  fun p hp => Part.agree_trans (h₁ p hp) (h₂ p hp)

/-- Two operations in turn, each within the parts `hs`. -/
theorem Only.next {fs gs hs : List Part} {s t u : State} (h₁ : Only fs s t) (h₂ : Only gs t u)
    (sub₁ : ∀ p ∈ fs, p ∈ hs) (sub₂ : ∀ p ∈ gs, p ∈ hs) : Only hs s u :=
  (h₁.mono sub₁).trans (h₂.mono sub₂)

/-- A fold of operations that each stay within `fs`. -/
theorem Only.foldl {fs : List Part} {α : Type} {op : State → α → State} (h : ∀ s a, Only fs s (op s a)) :
    ∀ (xs : List α) (s : State), Only fs s (xs.foldl op s)
  | [], s => Only.refl fs s
  | x :: xs, s => (h s x).trans (Only.foldl h xs (op s x))

/-! ## Memories, tables, replies, anomalies, history -/

theorem State.programPage_only (s : State) (p : Nat) (b : List Byte) :
    Only [.flash] s (s.programPage p b) := by
  intro p h; cases p <;> first | rfl | exact ⟨rfl, rfl⟩ | exact absurd (by decide) h

theorem State.eraseSector_only (s : State) (n : Nat) :
    Only [.flash] s (s.eraseSector n) := by
  intro p h; cases p <;> first | rfl | exact ⟨rfl, rfl⟩ | exact absurd (by decide) h

theorem State.interruptOp_only (s : State) (op : FlashOp) : Only [.flash, .freeIndex] s (s.interruptOp op) := by
  unfold State.interruptOp; split <;> (intro p h; cases p <;> first | rfl | exact ⟨rfl, rfl⟩ | exact absurd (by decide) h)

theorem State.setLane_only (s : State) (l : LaneNo) (v : Lane) :
    Only [.lanes] s (s.setLane l v) := by
  intro p h; cases p <;> first | rfl | exact ⟨rfl, rfl⟩ | exact absurd (by decide) h

theorem State.setLine_only (s : State) (l : LineNo) (v : TriggerLine) :
    Only [.lines] s (s.setLine l v) := by
  intro p h; cases p <;> first | rfl | exact ⟨rfl, rfl⟩ | exact absurd (by decide) h

theorem State.setStream_only (s : State) (i : Nat) (v : Stream) :
    Only [.streams] s (s.setStream i v) := by
  intro p h; cases p <;> first | rfl | exact ⟨rfl, rfl⟩ | exact absurd (by decide) h

theorem State.setDir_only (s : State) (i : Nat) (v : DirEntry) :
    Only [.directory] s (s.setDir i v) := by
  intro p h; cases p <;> first | rfl | exact ⟨rfl, rfl⟩ | exact absurd (by decide) h

theorem State.handReply_only (s : State) (r : Reply) :
    Only [.tx] s (s.handReply r) := by
  intro p h; cases p <;> first | rfl | exact ⟨rfl, rfl⟩ | exact absurd (by decide) h

theorem State.answerWait_only (s : State) (w : Parked) (x : Status) (b : List Byte) :
    Only [.parked, .tx] s (s.answerWait w x b) := by
  intro p h; cases p <;> first | rfl | exact ⟨rfl, rfl⟩ | exact absurd (by decide) h

theorem State.tellRecord_only (s : State) : Only [.parked, .tx] s s.tellRecord := by
  unfold State.tellRecord; split
  · split
    · exact State.answerWait_only s _ _ _
    · exact Only.refl _ s
  · exact Only.refl _ s

theorem State.tellEpoch_only (s : State) : Only [.parked, .tx] s s.tellEpoch := by
  unfold State.tellEpoch; split
  · split
    · exact State.answerWait_only s _ _ _
    · exact Only.refl _ s
  · exact Only.refl _ s

theorem State.tellAnomaly_only (s : State) : Only [.parked, .tx] s s.tellAnomaly := by
  unfold State.tellAnomaly; split
  · exact State.answerWait_only s _ _ _
  · exact Only.refl _ s

/-- What a post changes. -/
abbrev postParts : List Part := [.anomalies, .parked, .tx]

theorem State.setAnomalies_only (s : State) (q : Anomalies) : Only [.anomalies] s { s with anomalies := q } := by
  intro p h; cases p <;> first | rfl | exact ⟨rfl, rfl⟩ | exact absurd (by decide) h

theorem State.post_only (s : State) (a : Anomaly) : Only postParts s (s.post a) := by
  unfold State.post; dsimp only; split
  · split
    · exact (s.setAnomalies_only _).next (State.tellAnomaly_only _) (by decide) (by decide)
    · exact (s.setAnomalies_only _).mono (by decide)
  · exact (s.setAnomalies_only _).mono (by decide)

theorem State.postPlain_only (s : State) (k : AnomalyKind) (i : Option Nat) (d : Nat) :
    Only postParts s (s.postPlain k i d) := s.post_only _

theorem State.placeEvent_only (s : State) (n : Nat) (o : Origin) (c : Nat) (d : List Byte) :
    Only [.history] s (s.placeEvent n o c d) := by
  intro p h; cases p <;> first | rfl | exact ⟨rfl, rfl⟩ | exact absurd (by decide) h

theorem State.ownEvent_only (s : State) (b : Block) (c : Nat) (d : List Byte) :
    Only [.history] s (s.ownEvent b c d) := by
  intro p h; cases p <;> first | rfl | exact ⟨rfl, rfl⟩ | exact absurd (by decide) h

theorem State.returnBlocks_only (s : State) (b : List Nat) :
    Only [.freeList] s (s.returnBlocks b) := by
  intro p h; cases p <;> first | rfl | exact ⟨rfl, rfl⟩ | exact absurd (by decide) h

/-! ## The store's flags and run -/

theorem State.evalLow_only (s : State) :
    Only [.low] s (s.evalLow) := by
  intro p h; cases p <;> first | rfl | exact ⟨rfl, rfl⟩ | exact absurd (by decide) h

theorem State.evalExhausted_only (s : State) :
    Only [.store] s (s.evalExhausted) := by
  intro p h; cases p <;> first | rfl | exact ⟨rfl, rfl⟩ | exact absurd (by decide) h

theorem State.growRun_only (s : State) : Only [.store] s s.growRun := by
  unfold State.growRun; dsimp only; split
  · exact Only.refl _ s
  · intro p h; cases p <;> first | rfl | exact ⟨rfl, rfl⟩ | exact absurd (by decide) h

/-! ## The commit queue -/

theorem State.countLost_only (s : State) (i : RecInfo) : Only [.epoch] s (s.countLost i) := by
  unfold State.countLost; split
  · intro p h; cases p <;> first | rfl | exact ⟨rfl, rfl⟩ | exact absurd (by decide) h
  · exact Only.refl _ s

theorem State.countStoreFull_only (s : State) :
    Only [.commit] s (s.countStoreFull) := by
  intro p h; cases p <;> first | rfl | exact ⟨rfl, rfl⟩ | exact absurd (by decide) h

theorem State.countBudgetDrop_only (s : State) :
    Only [.commit] s (s.countBudgetDrop) := by
  intro p h; cases p <;> first | rfl | exact ⟨rfl, rfl⟩ | exact absurd (by decide) h

theorem State.enterQueue_only (s : State) (e : QEntry) :
    Only [.queue, .examDue] s (s.enterQueue e) := by
  intro p h; cases p <;> first | rfl | exact ⟨rfl, rfl⟩ | exact absurd (by decide) h

theorem State.setCommit_only (s : State) (x : CommitCounters) :
    Only [.commit] s ({ s with commit := x }) := by
  intro p h; cases p <;> first | rfl | exact ⟨rfl, rfl⟩ | exact absurd (by decide) h

theorem State.setEpoch_only (s : State) (x : Epoch) :
    Only [.epoch] s ({ s with epoch := x }) := by
  intro p h; cases p <;> first | rfl | exact ⟨rfl, rfl⟩ | exact absurd (by decide) h

theorem State.setWriter_only (s : State) (x : Writer) :
    Only [.writer] s ({ s with writer := x }) := by
  intro p h; cases p <;> first | rfl | exact ⟨rfl, rfl⟩ | exact absurd (by decide) h

theorem State.setPort_only (s : State) (x : Port) :
    Only [.port] s ({ s with port := x }) := by
  intro p h; cases p <;> first | rfl | exact ⟨rfl, rfl⟩ | exact absurd (by decide) h

theorem State.setBudget_only (s : State) (x : Budget) :
    Only [.budget] s ({ s with budget := x }) := by
  intro p h; cases p <;> first | rfl | exact ⟨rfl, rfl⟩ | exact absurd (by decide) h

theorem State.setHistory_only (s : State) (x : History) :
    Only [.history] s ({ s with history := x }) := by
  intro p h; cases p <;> first | rfl | exact ⟨rfl, rfl⟩ | exact absurd (by decide) h

theorem State.setStore_only (s : State) (x : Store) :
    Only [.store, .low] s ({ s with store := x }) := by
  intro p h; cases p <;> first | rfl | exact ⟨rfl, rfl⟩ | exact absurd (by decide) h

theorem State.setPowerCounters_only (s : State) (x : PowerCounters) :
    Only [.powerCounters] s ({ s with powerCounters := x }) := by
  intro p h; cases p <;> first | rfl | exact ⟨rfl, rfl⟩ | exact absurd (by decide) h

theorem State.setMonitor_only (s : State) (x : Monitor) :
    Only [.monitor] s ({ s with monitor := x }) := by
  intro p h; cases p <;> first | rfl | exact ⟨rfl, rfl⟩ | exact absurd (by decide) h

theorem State.setClosed_only (s : State) (e : Epoch) (b : Bool) :
    Only [.epoch, .examDue] s ({ s with epoch := e, examDue := b }) := by
  intro p h; cases p <;> first | rfl | exact ⟨rfl, rfl⟩ | exact absurd (by decide) h

theorem State.setQueue_only (s : State) (q : List QEntry) :
    Only [.queue] s ({ s with queue := q }) := by
  intro p h; cases p <;> first | rfl | exact ⟨rfl, rfl⟩ | exact absurd (by decide) h

theorem State.setExamDue_only (s : State) (b : Bool) :
    Only [.examDue] s ({ s with examDue := b }) := by
  intro p h; cases p <;> first | rfl | exact ⟨rfl, rfl⟩ | exact absurd (by decide) h

/-- What offering a record to the queue changes. -/
abbrev offerParts : List Part := [.queue, .examDue, .commit, .freeList, .epoch, .anomalies, .parked, .tx]

theorem State.offerFull_only (s : State) (e : QEntry) : Only offerParts s (s.offerFull e) := by
  unfold State.offerFull; dsimp only; split
  · exact Only.refl _ s
  · split
    · refine Only.trans ?_ ((State.enterQueue_only _ e).mono (by decide))
      refine Only.trans ?_ ((State.countLost_only _ _).mono (by decide))
      refine Only.trans ?_ ((State.post_only _ _).mono (by decide))
      refine Only.trans ?_ ((State.returnBlocks_only _ _).mono (by decide))
      intro p h; cases p <;> first | rfl | exact ⟨rfl, rfl⟩ | exact absurd (by decide) h
    · refine Only.trans ?_ ((State.countLost_only _ _).mono (by decide))
      refine Only.trans ?_ ((State.post_only _ _).mono (by decide))
      refine Only.trans ?_ ((State.returnBlocks_only _ _).mono (by decide))
      intro p h; cases p <;> first | rfl | exact ⟨rfl, rfl⟩ | exact absurd (by decide) h

theorem State.offer_only (s : State) (e : QEntry) : Only offerParts s (s.offer e) := by
  unfold State.offer; dsimp only; split
  · exact (s.setCommit_only _).next (State.enterQueue_only _ e) (by decide) (by decide)
  · exact (s.setCommit_only _).next (State.offerFull_only _ e) (by decide) (by decide)

/-! ## Reassembly -/

theorem State.mapReassembly_only (s : State) (f : ReassemblyCounters → ReassemblyCounters) :
    Only [.reassembly] s (s.mapReassembly f) := by
  intro p h; cases p <;> first | rfl | exact ⟨rfl, rfl⟩ | exact absurd (by decide) h

/-- What closing a record changes. -/
abbrev closeParts : List Part := .reassembly :: .streams :: offerParts

theorem State.handOver_only (s : State) (e : QEntry) : Only closeParts s (s.handOver e) :=
  (s.mapReassembly_only _).next (State.offer_only _ e) (by decide) (by decide)

theorem State.closeRecord_only (s : State) (i : Nat) (how : Completion) (tick : Nat) :
    Only closeParts s (s.closeRecord i how tick) :=
  (s.setStream_only i _).next (State.handOver_only _ _) (by decide) (by decide)

theorem State.truncateRecord_only (s : State) (i : Nat) (how : Completion) (tick : Nat) :
    Only closeParts s (s.truncateRecord i how tick) :=
  (s.setStream_only i _).next (State.handOver_only _ _) (by decide) (by decide)

/-- What taking a fragment changes. -/
abbrev takeParts : List Part := .pool :: closeParts

theorem State.appendStore_only (s : State) (i : Nat) (b : List Byte) :
    Only [.pool, .freeList, .streams] s (s.appendStore i b) := by
  unfold State.appendStore; dsimp only; split <;> (intro p h; cases p <;> first | rfl | exact ⟨rfl, rfl⟩ | exact absurd (by decide) h)

theorem State.dropFragment_only (s : State) (i : Nat) : Only [.streams, .reassembly] s (s.dropFragment i) :=
  (s.setStream_only i _).next (State.mapReassembly_only _ _) (by decide) (by decide)

theorem State.dropPosted_only (s : State) (f : RecFragment) (k : AnomalyKind) (d : Nat) :
    Only closeParts s (s.dropPosted f k d) :=
  (s.dropFragment_only f.stream).next (State.post_only _ _) (by decide) (by decide)

theorem State.admitFragment_only (s : State) (i : Nat) :
    Only [.streams, .reassembly, .epoch] s (s.admitFragment i) := by
  intro p h; cases p <;> first | rfl | exact ⟨rfl, rfl⟩ | exact absurd (by decide) h

theorem State.takeFirst_only (s : State) (f : RecFragment) : Only takeParts s (s.takeFirst f) := by
  unfold State.takeFirst; dsimp only
  split
  · refine Only.trans ?_ ((State.admitFragment_only _ _).mono (by decide))
    exact (s.setStream_only _ _).next (State.appendStore_only _ _ _) (by decide) (by decide)
  · refine Only.trans ?_ ((State.truncateRecord_only _ _ _ _).mono (by decide))
    exact (s.setStream_only _ _).next (State.admitFragment_only _ _) (by decide) (by decide)

theorem State.takeOnly_only (s : State) (f : RecFragment) : Only takeParts s (s.takeOnly f) := by
  unfold State.takeOnly; dsimp only
  split
  · refine Only.trans ?_ ((State.closeRecord_only _ _ _ _).mono (by decide))
    refine Only.trans ?_ ((State.admitFragment_only _ _).mono (by decide))
    exact (s.setStream_only _ _).next (State.appendStore_only _ _ _) (by decide) (by decide)
  · refine Only.trans ?_ ((State.closeRecord_only _ _ _ _).mono (by decide))
    exact (s.setStream_only _ _).next (State.admitFragment_only _ _) (by decide) (by decide)

theorem State.takeOpening_only (s : State) (f : RecFragment) : Only takeParts s (s.takeOpening f) := by
  unfold State.takeOpening; split
  · exact s.takeFirst_only f
  · exact s.takeOnly_only f

theorem State.takeNumbered_only (s : State) (f : RecFragment) : Only takeParts s (s.takeNumbered f) := by
  unfold State.takeNumbered; dsimp only; split
  · split
    · exact (State.closeRecord_only _ _ _ _).next (State.dropFragment_only _ _) (by decide) (by decide)
    · exact (State.truncateRecord_only _ _ _ _).next (State.dropFragment_only _ _) (by decide) (by decide)
  · have h (t : Stream) : Only takeParts s
        (((s.appendStore f.stream f.frag.payload).setStream f.stream t).admitFragment f.stream) := by
      refine Only.trans ?_ ((State.admitFragment_only _ f.stream).mono (by decide))
      exact (s.appendStore_only _ _).next (State.setStream_only _ _ _) (by decide) (by decide)
    split
    · exact (h _).trans ((State.closeRecord_only _ _ _ _).mono (by decide))
    · split
      · exact (h _).trans ((State.truncateRecord_only _ _ _ _).mono (by decide))
      · exact h _

theorem State.takeContinuation_only (s : State) (f : RecFragment) : Only takeParts s (s.takeContinuation f) := by
  unfold State.takeContinuation; dsimp only; split
  · exact (s.dropPosted_only _ _ _).mono (by decide)
  · split
    · exact (s.dropPosted_only _ _ _).mono (by decide)
    · exact s.takeNumbered_only f

theorem State.takeByState_only (s : State) (f : RecFragment) : Only takeParts s (s.takeByState f) := by
  unfold State.takeByState; dsimp only; split
  · exact s.takeOpening_only f
  · exact s.takeOpening_only f
  · exact (s.dropPosted_only _ _ _).mono (by decide)
  · exact (s.closeRecord_only _ _ _).next (State.takeOpening_only _ f) (by decide) (by decide)
  · exact (s.closeRecord_only _ _ _).next (State.takeOpening_only _ f) (by decide) (by decide)
  · exact s.takeContinuation_only f
  · exact (s.setStream_only _ _).next (State.takeOpening_only _ f) (by decide) (by decide)
  · exact (s.setStream_only _ _).next (State.takeOpening_only _ f) (by decide) (by decide)
  · exact (s.setStream_only _ _).next (State.dropFragment_only _ _) (by decide) (by decide)
  · exact (s.dropFragment_only _).mono (by decide)
  · exact (s.dropFragment_only _).mono (by decide)

theorem State.closeStream_only (s : State) (i : Nat) : Only closeParts s (s.closeStream i) := by
  unfold State.closeStream; split
  · exact s.closeRecord_only _ _ _
  · exact (s.setStream_only _ _).mono (by decide)
  · exact Only.refl _ s

theorem State.closeAll_only (s : State) : Only closeParts s s.closeAll :=
  Only.foldl State.closeStream_only _ s

theorem State.resetStreams_only (s : State) :
    Only [.streams] s (s.resetStreams) := by
  intro p h; cases p <;> first | rfl | exact ⟨rfl, rfl⟩ | exact absurd (by decide) h

/-! ## The epoch controller -/

/-- What applying pending copies changes. -/
abbrev applyParts : List Part := [.domains, .primary, .streams, .poolReserve, .aging, .cursor, .sweepTimer]

theorem State.applyAging_only (s : State) (a : AgingSettings) :
    Only [.aging, .cursor, .sweepTimer] s (s.applyAging a) := by
  unfold State.applyAging; dsimp only; split <;> (intro p h; cases p <;> first | rfl | exact ⟨rfl, rfl⟩ | exact absurd (by decide) h)

theorem State.applyPending_only (s : State) : Only applyParts s s.applyPending := by
  unfold State.applyPending; dsimp only; split
  · refine Only.trans ?_ ((State.applyAging_only _ _).mono (by decide))
    intro p h; cases p <;> first | rfl | exact ⟨rfl, rfl⟩ | exact absurd (by decide) h
  · intro p h; cases p <;> first | rfl | exact ⟨rfl, rfl⟩ | exact absurd (by decide) h

theorem State.mapLines_only (s : State) (f : TriggerLine → TriggerLine) :
    Only [.lines] s { s with lines := s.lines.map f } := by
  intro p h; cases p <;> first | rfl | exact ⟨rfl, rfl⟩ | exact absurd (by decide) h

/-- What a rearm changes. -/
abbrev rearmParts : List Part := [.history, .streams, .lines, .epoch, .parked, .tx]

theorem State.rearm_only (s : State) (n : Nat) : Only rearmParts s (s.rearm n) := by
  unfold State.rearm; dsimp only
  refine Only.trans ?_ ((State.tellEpoch_only _).mono (by decide))
  refine Only.trans ?_ ((State.ownEvent_only _ _ _ _).mono (by decide))
  intro p h; cases p <;> first | rfl | exact ⟨rfl, rfl⟩ | exact absurd (by decide) h

/-- What the entry to CLOSED changes. -/
abbrev closedParts : List Part := .epoch :: .history :: .parked :: .tx :: applyParts

theorem State.enterClosed_only (s : State) (b : Bool) : Only closedParts s (s.enterClosed b) := by
  unfold State.enterClosed; dsimp only
  refine Only.trans ?_ ((State.tellEpoch_only _).mono (by decide))
  have h (e : Epoch) (n : State → Block × Nat × List Byte) : Only closedParts s
      (({ s with epoch := e } : State).applyPending.ownEvent (n ({ s with epoch := e } : State).applyPending).1
        (n ({ s with epoch := e } : State).applyPending).2.1 (n ({ s with epoch := e } : State).applyPending).2.2) := by
    refine Only.trans ?_ ((State.ownEvent_only _ _ _ _).mono (by decide))
    exact (s.setEpoch_only _).next (State.applyPending_only _) (by decide) (by decide)
  split
  · exact h _ fun t => (.epoch, 0x0203, le 2 t.epoch.number ++ le 1 t.epoch.flushCause.code ++ [boolByte b])
  · exact (h _ fun t => (.epoch, 0x0203, le 2 t.epoch.number ++ le 1 t.epoch.flushCause.code ++ [boolByte b])).trans
      ((State.ownEvent_only _ _ _ _).mono (by decide))

/-- What the end of the close writes changes. -/
abbrev closeEpochParts : List Part := .writer :: .lines :: closedParts

theorem State.closeEpoch_only (s : State) : Only closeEpochParts s s.closeEpoch := by
  unfold State.closeEpoch; dsimp only
  have h (w : Writer) : Only closeEpochParts s (({ s with writer := w } : State).enterClosed false) :=
    (s.setWriter_only w).next (State.enterClosed_only _ _) (by decide) (by decide)
  split
  · exact (h _).trans ((State.rearm_only _ _).mono (by decide))
  · exact h _

theorem State.closeStreams_only (s : State) : Only closeParts s s.closeStreams := by
  have h : Only closeParts s ({ s with epoch := { s.epoch with graceTimer := none } } : State).closeAll :=
    (s.setEpoch_only _).next (State.closeAll_only _) (by decide) (by decide)
  unfold State.closeStreams; split
  · exact Only.refl _ s
  · exact h.trans ((State.setClosed_only _ _ _).mono (by decide))

/-- What a flush changes. -/
abbrev flushParts : List Part := .history :: closeParts

theorem State.enterFlush_only (s : State) (c : FlushCause) (g : Nat) : Only flushParts s (s.enterFlush c g) := by
  unfold State.enterFlush; dsimp only
  have h (e : Epoch) (d : List Byte) : Only flushParts s (({ s with epoch := e } : State).ownEvent .epoch 0x0202 d).tellEpoch := by
    refine Only.trans ?_ ((State.tellEpoch_only _).mono (by decide))
    exact (s.setEpoch_only _).next (State.ownEvent_only _ _ _ _) (by decide) (by decide)
  split
  · exact (h _ _).trans ((State.closeStreams_only _).mono (by decide))
  · exact (h _ _).trans ((State.setEpoch_only _ _).mono (by decide))

theorem State.flushAtOnce_only (s : State) (c : FlushCause) : Only flushParts s (s.flushAtOnce c) := by
  unfold State.flushAtOnce; split
  · exact s.enterFlush_only _ _
  · exact (s.closeStreams_only).mono (by decide)
  · exact Only.refl _ s

theorem State.reportStoreFull_only (s : State) : Only flushParts s s.reportStoreFull := by
  unfold State.reportStoreFull; split
  · exact Only.refl _ s
  · split
    · exact (s.setEpoch_only _).next (State.flushAtOnce_only _ _) (by decide) (by decide)
    · exact (s.setEpoch_only _).next (State.flushAtOnce_only _ _) (by decide) (by decide)
    · exact Only.refl _ s

/-- What an opening changes. -/
abbrev openParts : List Part := .budget :: .writer :: .history :: offerParts

theorem State.openEpoch_only (s : State) (c : OpenCause) : Only openParts s (s.openEpoch c) := by
  unfold State.openEpoch; dsimp only
  refine Only.trans ?_ ((State.tellEpoch_only _).mono (by decide))
  refine Only.trans ?_ ((State.ownEvent_only _ _ _ _).mono (by decide))
  refine Only.trans ?_ ((State.setExamDue_only _ _).mono (by decide))
  refine Only.trans ?_ ((State.offer_only _ _).mono (by decide))
  refine Only.trans ?_ ((State.offer_only _ _).mono (by decide))
  intro p h; cases p <;> first | rfl | exact ⟨rfl, rfl⟩ | exact absurd (by decide) h

theorem State.openRequest_only (s : State) (c : OpenCause) : Only openParts s (s.openRequest c) := by
  unfold State.openRequest; split
  · split
    · exact s.openEpoch_only c
    · exact (s.post_only _).next (State.ownEvent_only _ _ _ _) (by decide) (by decide)
  · exact (s.ownEvent_only _ _ _).mono (by decide)
  · exact (s.ownEvent_only _ _ _).mono (by decide)
  · exact (s.ownEvent_only _ _ _).mono (by decide)

theorem State.dropFault_only (s : State) (e : QEntry) : Only offerParts s (s.dropFault e) := by
  unfold State.dropFault; dsimp only
  refine Only.trans ?_ ((State.postPlain_only _ _ _ _).mono (by decide))
  refine Only.trans ?_ ((State.returnBlocks_only _ _).mono (by decide))
  exact (s.setCommit_only _).mono (by decide)

/-- What a forced close changes. -/
abbrev forceParts : List Part := closedParts ++ closeParts

theorem State.forceClose_only (s : State) : Only forceParts s s.forceClose := by
  unfold State.forceClose; dsimp only; split
  case h_3 => exact Only.refl _ s
  all_goals
    refine Only.trans ?_ ((State.enterClosed_only _ _).mono (by decide))
    refine Only.trans ?_ ((Only.foldl State.dropFault_only _ _).mono (by decide))
    refine Only.trans ?_ ((State.setQueue_only _ _).mono (by decide))
    exact (s.setEpoch_only _).next (State.closeStreams_only _) (by decide) (by decide)

/-! ## The budget unit and the writer -/

theorem State.recomputeEnergy_only (s : State) :
    Only [.budget] s (s.recomputeEnergy) := by
  intro p h; cases p <;> first | rfl | exact ⟨rfl, rfl⟩ | exact absurd (by decide) h

theorem State.commitPages_only (s : State) (n : Nat) :
    Only [.budget] s (s.commitPages n) := by
  intro p h; cases p <;> first | rfl | exact ⟨rfl, rfl⟩ | exact absurd (by decide) h

theorem State.uncommitPages_only (s : State) (n : Nat) :
    Only [.budget] s (s.uncommitPages n) := by
  intro p h; cases p <;> first | rfl | exact ⟨rfl, rfl⟩ | exact absurd (by decide) h

theorem State.countRefusal_only (s : State) :
    Only [.powerCounters] s (s.countRefusal) := by
  intro p h; cases p <;> first | rfl | exact ⟨rfl, rfl⟩ | exact absurd (by decide) h

/-- What an examination of the queue changes. -/
abbrev examineParts : List Part :=
  .writer :: .budget :: .powerCounters :: .port :: .lines :: (forceParts ++ openParts)

theorem State.reportExhaustion_only (s : State) : Only examineParts s s.reportExhaustion := by
  unfold State.reportExhaustion; dsimp only; split
  · refine Only.trans ?_ ((State.flushAtOnce_only _ _).mono (by decide))
    intro p h; cases p <;> first | rfl | exact ⟨rfl, rfl⟩ | exact absurd (by decide) h
  · exact Only.refl _ s

theorem State.claimWriter_only (s : State) : Only [.port] s s.claimWriter := by
  unfold State.claimWriter; split
  · exact s.setPort_only _
  · exact Only.refl _ s

theorem State.beginRecord_only (s : State) (e : QEntry) (w : WriterState) :
    Only [.writer, .budget, .port] s (s.beginRecord e w) := by
  unfold State.beginRecord; dsimp only
  refine Only.trans ?_ ((State.claimWriter_only _).mono (by decide))
  exact (s.setWriter_only _).next (State.commitPages_only _ _) (by decide) (by decide)

theorem State.dropStoreFull_only (s : State) (e : QEntry) : Only examineParts s (s.dropStoreFull e) := by
  unfold State.dropStoreFull; dsimp only
  have h : Only examineParts s
      ((((s.returnBlocks e.chain).postPlain .storeFull e.info.streamField
        (pageCount s.store.tail e.info.payloadLen)).countStoreFull).countLost e.info) := by
    refine Only.trans ?_ ((State.countLost_only _ _).mono (by decide))
    refine Only.trans ?_ ((State.countStoreFull_only _).mono (by decide))
    exact (s.returnBlocks_only _).next (State.postPlain_only _ _ _ _) (by decide) (by decide)
  split
  · exact h.trans ((State.setWriter_only _ _).mono (by decide))
  · exact h

theorem State.dropBudget_only (s : State) (e : QEntry) : Only examineParts s (s.dropBudget e) := by
  unfold State.dropBudget; dsimp only
  refine Only.trans ?_ ((State.countLost_only _ _).mono (by decide))
  refine Only.trans ?_ ((State.countBudgetDrop_only _).mono (by decide))
  exact (s.returnBlocks_only _).next (State.postPlain_only _ _ _ _) (by decide) (by decide)

theorem scanQueue_only : ∀ (q kept : List QEntry) (s : State), Only examineParts s (scanQueue kept q s).2
  | [], kept, s => (s.setQueue_only kept).mono (by decide)
  | e :: rest, kept, s => by
    unfold scanQueue; split
    · exact (s.setQueue_only _).mono (by decide)
    · exact (s.dropStoreFull_only e).trans (scanQueue_only rest kept _)
    · split
      · exact (s.setQueue_only _).next (State.beginRecord_only _ _ _) (by decide) (by decide)
      · split
        · exact (s.countRefusal_only.mono (by decide)).trans (scanQueue_only rest _ _)
        · exact Only.trans ((s.countRefusal_only.mono (by decide)).trans (State.dropBudget_only _ e))
            (scanQueue_only rest _ _)

theorem State.nextClose_only : ∀ (ks : List RecKind) (s : State), Only examineParts s (State.nextClose ks s)
  | [], s => s.closeEpoch_only.mono (by decide)
  | k :: ks, s => by
    unfold State.nextClose; dsimp only; split
    · exact (s.setWriter_only _).next (State.beginRecord_only _ _ _) (by decide) (by decide)
    · exact Only.trans ((s.postPlain_only _ _ _).next (State.countStoreFull_only _) (by decide) (by decide))
        (State.nextClose_only ks _)

theorem State.dropAtClosing_only (s : State) (e : QEntry) : Only examineParts s (s.dropAtClosing e) := by
  unfold State.dropAtClosing; split
  · exact s.dropStoreFull_only e
  · exact s.dropBudget_only e

theorem State.enterClosing_only (s : State) : Only examineParts s s.enterClosing := by
  unfold State.enterClosing; dsimp only
  refine Only.trans ?_ (State.nextClose_only _ _)
  refine Only.trans ?_ (Only.foldl State.dropAtClosing_only _ _)
  intro p h; cases p <;> first | rfl | exact ⟨rfl, rfl⟩ | exact absurd (by decide) h

theorem State.examineOnce_only (s : State) : Only examineParts s s.examineOnce := by
  unfold State.examineOnce; dsimp only
  split
  · exact (s.setExamDue_only false).mono (by decide)
  · have h : Only examineParts s (scanQueue [] s.queue { s with examDue := false }).2 :=
      ((s.setExamDue_only false).mono (by decide)).trans (scanQueue_only _ _ _)
    split
    · rename_i heq; rw [heq] at h; exact h
    · rename_i heq; rw [heq] at h; exact h
    · rename_i u heq; rw [heq] at h
      refine Only.trans h ?_
      have h₂ : Only examineParts u (if u.writer.openMarkDropped then u.reportStoreFull else u) := by
        split
        · exact u.reportStoreFull_only.mono (by decide)
        · exact Only.refl _ u
      refine Only.trans h₂ ?_
      refine Only.trans (State.reportExhaustion_only _) ?_
      generalize State.reportExhaustion _ = v
      split
      · exact v.enterClosing_only
      · exact Only.refl _ v

theorem State.examine_only (s : State) : Only examineParts s s.examine := by
  unfold State.examine; dsimp only
  have again (t : State) : Only examineParts t (if t.examDue then t.examineOnce else t) := by
    split
    · exact t.examineOnce_only
    · exact Only.refl _ t
  exact Only.trans ((again s).trans ((again _).trans (again _))) ((State.setExamDue_only _ _).mono (by decide))

/-- What the completion of a page changes. -/
abbrev pageParts : List Part := [.store, .low, .commit, .budget, .directory, .freeList, .writer]

theorem State.pageMoved_only (s : State) : Only pageParts s s.pageMoved := by
  unfold State.pageMoved; dsimp only
  refine Only.trans ?_ ((State.evalLow_only _).mono (by decide))
  refine Only.trans ?_ ((State.uncommitPages_only _ _).mono (by decide))
  intro p h; cases p <;> first | rfl | exact ⟨rfl, rfl⟩ | exact absurd (by decide) h

theorem State.markDone_only (s : State) (f : InFlight) : Only pageParts s (s.markDone f) := by
  unfold State.markDone; dsimp only
  refine Only.trans ?_ (State.pageMoved_only _)
  refine Only.trans ?_ ((State.evalExhausted_only _).mono (by decide))
  intro p h; cases p <;> first | rfl | exact ⟨rfl, rfl⟩ | exact absurd (by decide) h

theorem State.fillFirst_only (s : State) (p n : Nat) : Only [.directory] s (s.fillFirst p n) := by
  unfold State.fillFirst; split
  · split
    · exact s.setDir_only _ _
    · exact Only.refl _ s
  · exact Only.refl _ s

theorem State.frameDone_only (s : State) (f : InFlight) : Only pageParts s (s.frameDone f) := by
  unfold State.frameDone; dsimp only
  refine Only.trans ?_ (State.pageMoved_only _)
  refine Only.trans ?_ ((State.setWriter_only _ _).mono (by decide))
  refine Only.trans ?_ ((State.returnBlocks_only _ _).mono (by decide))
  split
  · exact (s.fillFirst_only _ _).mono (by decide)
  · exact Only.refl _ s

theorem State.checkStoreFull_only (s : State) : Only flushParts s s.checkStoreFull := by
  unfold State.checkStoreFull; split
  · exact s.reportStoreFull_only
  · exact Only.refl _ s

/-- What a page program of the writer changes, beside the flash. -/
abbrev writerPageParts : List Part := .port :: (pageParts ++ flushParts)

theorem State.writerPageDone_only (s : State) : Only writerPageParts s s.writerPageDone := by
  unfold State.writerPageDone; split
  · exact Only.refl _ s
  · dsimp only
    refine Only.trans ?_ ((State.claimWriter_only _).mono (by decide))
    refine Only.trans ?_ ((State.checkStoreFull_only _).mono (by decide))
    split
    · exact (s.markDone_only _).mono (by decide)
    · exact (s.frameDone_only _).mono (by decide)

theorem State.recordPointers_only (s : State) (f : InFlight) : Only [.store] s (s.recordPointers f) := by
  unfold State.recordPointers
  refine Only.trans ?_ (State.evalExhausted_only _)
  intro p h; cases p <;> first | rfl | exact ⟨rfl, rfl⟩ | exact absurd (by decide) h

/-- What a record that turns VALID changes. -/
abbrev validParts : List Part := [.store, .epoch, .commit, .writer, .parked, .tx]

theorem State.recordValid_only (s : State) (f : InFlight) : Only validParts s (s.recordValid f) := by
  unfold State.recordValid; dsimp only
  refine Only.trans ?_ ((State.tellRecord_only _).mono (by decide))
  refine Only.trans ((s.recordPointers_only f).mono (by decide)) ?_
  intro p h; cases p <;> first | rfl | exact ⟨rfl, rfl⟩ | exact absurd (by decide) h

theorem State.writerGoesOn_only (s : State) : Only examineParts s s.writerGoesOn := by
  unfold State.writerGoesOn; split
  · intro p h; cases p <;> first | rfl | exact ⟨rfl, rfl⟩ | exact absurd (by decide) h
  · exact State.nextClose_only _ _
  · exact Only.refl _ s

/-! ## The flash port -/

/-- What a reply of the server changes. -/
abbrev replyParts : List Part := [.server, .link, .tx]

theorem State.replyWith_only (s : State) (x : Status) (b : List Byte) (r : Bool) :
    Only replyParts s (s.replyWith x b r) := by
  unfold State.replyWith; split
  · exact Only.refl _ s
  · intro p h; cases p <;> first | rfl | exact ⟨rfl, rfl⟩ | exact absurd (by decide) h

theorem State.serverReply_only (s : State) (x : Status) (b : List Byte) : Only replyParts s (s.serverReply x b) :=
  s.replyWith_only x b false

theorem State.endRefused_only (s : State) : Only (.low :: replyParts) s s.endRefused := by
  unfold State.endRefused; split
  · exact (s.serverReply_only _ _).mono (by decide)
  · exact (s.serverReply_only _ _).next (State.evalLow_only _) (by decide) (by decide)
  · exact (s.serverReply_only _ _).mono (by decide)
  · exact Only.refl _ s

theorem State.claimService_only (s : State) (j : Job) (op : FlashOp) : Only [.server, .port] s (s.claimService j op) := by
  intro p h; cases p <;> first | rfl | exact ⟨rfl, rfl⟩ | exact absurd (by decide) h

theorem State.updateErase_only (s : State) : Only [.port] s s.updateErase := by
  intro p h; cases p <;> first | rfl | exact ⟨rfl, rfl⟩ | exact absurd (by decide) h

theorem State.grantMain_only (s : State) : Only [.port] s s.grantMain := by
  unfold State.grantMain; split
  · split
    · exact s.setPort_only _
    · exact s.setPort_only _
  · exact s.setPort_only _
  · exact s.setPort_only _
  · exact s.setPort_only _
  · exact Only.refl _ s

theorem State.grant_only (s : State) : Only [.port] s s.grant := by
  unfold State.grant; split
  · exact Only.refl _ s
  · split
    · exact s.grantMain_only
    · split
      · exact s.setPort_only _
      · exact Only.refl _ s

theorem State.settlePort_only (s : State) : Only [.port] s s.settlePort :=
  s.updateErase_only.trans (State.grant_only _)

theorem State.finish_only (s : State) : Only examineParts s s.finish :=
  s.examine_only.next (State.settlePort_only _) (by decide) (by decide)

theorem State.writerFault_only (s : State) : Only [.writer, .port, .freeList, .budget, .commit] s s.writerFault := by
  unfold State.writerFault; dsimp only; split
  · intro p h; cases p <;> first | rfl | exact ⟨rfl, rfl⟩ | exact absurd (by decide) h
  · intro p h; cases p <;> first | rfl | exact ⟨rfl, rfl⟩ | exact absurd (by decide) h

/-- What a flash fault changes. -/
abbrev faultParts : List Part :=
  .flash :: .freeIndex :: .low :: .writer :: .port :: .budget :: (replyParts ++ forceParts)

theorem State.refuseWaiting_only (s : State) : Only faultParts s s.refuseWaiting := by
  unfold State.refuseWaiting; split
  · exact Only.refl _ s
  · split
    · exact Only.refl _ s
    · refine Only.trans ?_ ((State.endRefused_only _).mono (by decide))
      intro p h; cases p <;> first | rfl | exact ⟨rfl, rfl⟩ | exact absurd (by decide) h

theorem State.enterFault_only (s : State) (x : OpInFlight) (b : Bool) : Only faultParts s (s.enterFault x b) := by
  unfold State.enterFault; dsimp only
  refine Only.trans ?_ ((State.forceClose_only _).mono (by decide))
  refine Only.trans ?_ ((State.writerFault_only _).mono (by decide))
  refine Only.trans ?_ ((State.ownEvent_only _ _ _ _).mono (by decide))
  refine Only.trans ?_ ((State.setCommit_only _ _).mono (by decide))
  refine Only.trans ?_ ((State.postPlain_only _ _ _ _).mono (by decide))
  exact (s.setPort_only _).next (State.interruptOp_only _ _) (by decide) (by decide)

theorem State.flashFault_only (s : State) (x : OpInFlight) (b : Bool) : Only faultParts s (s.flashFault x b) := by
  unfold State.flashFault; dsimp only
  refine Only.trans ?_ (State.refuseWaiting_only _)
  have h : Only faultParts s
      (if s.port.fault then ({ s with port := { s.port with inFlight := none } }.interruptOp x.op).countFault
        else s.enterFault x b) := by
    split
    · refine Only.trans ?_ ((State.setCommit_only _ _).mono (by decide))
      exact (s.setPort_only _).next (State.interruptOp_only _ _) (by decide) (by decide)
    · exact s.enterFault_only x b
  split
  · exact h.trans ((State.endRefused_only _).mono (by decide))
  · exact h

theorem State.lateReported_only (s : State) (ok : Bool) : Only [.port, .commit] s (s.lateReported ok) := by
  unfold State.lateReported; dsimp only; split
  · exact (s.setPort_only _).mono (by decide)
  · exact (s.setPort_only _).next (State.setCommit_only _ _) (by decide) (by decide)

end Sys2Proof.Machine
end

