-- ==== Sys2Proof/Laws/Blocks.lean ====
section
/-! SUPPORT. Laws/Blocks.lean: what each block's operations and each request's service can change: the lanes, the parser, the
trigger lines, the power monitor, the configuration, the flash requests, the server and recovery. -/

namespace Sys2Proof.Machine

/-! ## Lanes -/

/-- What a lane receiver changes. -/
abbrev laneParts : List Part := .lanes :: .heldOrder :: postParts

theorem State.laneDiscard_only (s : State) (l : LaneNo) (v : Lane) (k : LaneError) :
    Only laneParts s (s.laneDiscard l v k) := by
  unfold State.laneDiscard; dsimp only; split
  · exact (s.setLane_only l _).next (State.post_only _ _) (by decide) (by decide)
  · exact (s.setLane_only l _).mono (by decide)

theorem State.beginFragment_only (s : State) (l : LaneNo) (b : List Byte) (e : Bool) :
    Only laneParts s (s.beginFragment l b e) := by
  unfold State.beginFragment; dsimp only; split
  · exact (s.setLane_only l _).mono (by decide)
  · split
    · exact (s.setLane_only l _).mono (by decide)
    · exact s.laneDiscard_only l _ _

theorem State.storeLaneByte_only (s : State) (l : LaneNo) (b : Byte) : Only laneParts s (s.storeLaneByte l b) := by
  unfold State.storeLaneByte; dsimp only; split
  · exact (s.setLane_only l _).mono (by decide)
  · exact s.laneDiscard_only l _ _

theorem State.endFragment_only (s : State) (l : LaneNo) : Only laneParts s (s.endFragment l) := by
  unfold State.endFragment; dsimp only; split
  · exact s.laneDiscard_only l _ _
  · intro p h; cases p <;> first | rfl | exact ⟨rfl, rfl⟩ | exact absurd (by decide) h

theorem State.abandonFragment_only (s : State) (l : LaneNo) (rx : LaneRx) (k : LaneError) :
    Only laneParts s (s.abandonFragment l rx k) := s.laneDiscard_only l _ _

theorem State.asyncErrored_only (s : State) (l : LaneNo) (k : LaneError) : Only laneParts s (s.asyncErrored l k) := by
  unfold State.asyncErrored; split
  · exact s.laneDiscard_only l _ _
  · exact s.abandonFragment_only l _ _
  · exact Only.refl _ s

theorem State.asyncReceiving_only (s : State) (l : LaneNo) (b : Byte) : Only laneParts s (s.asyncReceiving l b) := by
  unfold State.asyncReceiving; split
  · split
    · exact s.storeLaneByte_only l _
    · exact s.abandonFragment_only l _ _
  · split
    · exact s.endFragment_only l
    · split
      · exact (s.setLane_only l _).mono (by decide)
      · exact s.storeLaneByte_only l b

theorem State.asyncGood_only (s : State) (l : LaneNo) (b : Byte) : Only laneParts s (s.asyncGood l b) := by
  unfold State.asyncGood; split
  · split
    · exact (s.setLane_only l _).mono (by decide)
    · exact Only.refl _ s
  · split
    · exact Only.refl _ s
    · split
      · exact s.beginFragment_only l _ _
      · exact s.beginFragment_only l _ _
  · exact s.asyncReceiving_only l b
  · exact Only.refl _ s

theorem State.reconfigureLane_only (s : State) (l : LaneNo) (v : LaneSettings) :
    Only laneParts s (s.reconfigureLane l v) := by
  have step (t : State) (b : Bool) (w : Lane) : Only laneParts t (if b then t.laneDiscard l w .aborted else t) := by
    split
    · exact t.laneDiscard_only l _ _
    · exact Only.refl _ t
  have last (t : State) (w : Lane) (h : List (LaneNo × Bool)) :
      Only laneParts t { t.setLane l w with heldOrder := h } := by
    intro p h; cases p <;> first | rfl | exact ⟨rfl, rfl⟩ | exact absurd (by decide) h
  exact Only.trans ((step s _ _).trans (step _ _ _)) (last _ _ _)

/-! ## The parser and the sweep -/

/-- What handling a fragment changes. -/
abbrev parseParts : List Part := .lanes :: .heldOrder :: .pool :: examineParts

theorem State.gate_only (s : State) (f : RecFragment) : Only parseParts s (s.gate f) := by
  have drop (t : State) (k : AnomalyKind) (d : Nat) : Only parseParts t (t.dropPosted f k d) :=
    (t.dropPosted_only f k d).mono (by decide)
  have take (t : State) : Only parseParts t (t.takeByState f) := (t.takeByState_only f).mono (by decide)
  have dropped : Only parseParts s (s.dropFragment f.stream) := (s.dropFragment_only _).mono (by decide)
  unfold State.gate; split
  · split
    · exact drop s _ _
    · exact dropped
  · split
    · unfold State.gateWatch State.dropNotCapturing; dsimp only; split
      · split
        · refine Only.trans ((s.openRequest_only (.source f.frag.source.domain)).mono (by decide)) ?_
          split
          · exact take _
          · exact drop _ _ _
        · exact drop s _ _
      · exact dropped
    · exact take s
    · split
      · exact drop s _ _
      · exact take s
    · exact dropped

theorem State.takeRecordFragment_only (s : State) (n : Nat) (f : Fragment) :
    Only parseParts s (s.takeRecordFragment n f) := by
  unfold State.takeRecordFragment; split
  · exact (s.post_only _).mono (by decide)
  · exact (s.post_only _).mono (by decide)
  · exact s.gate_only _

theorem State.takeEvent_only (s : State) (n : Nat) (f : Fragment) : Only [.history] s (s.takeEvent n f) :=
  (s.setHistory_only _).trans (State.placeEvent_only _ _ _ _ _)

theorem State.numberWarning_only (s : State) (l : LaneNo) (f : Fragment) : Only [.lanes] s (s.numberWarning l f).1 := by
  unfold State.numberWarning; split
  · exact s.setLane_only l _
  · exact Only.refl _ s

theorem State.decodeFragment_only (s : State) (l : LaneNo) (b : List Byte) :
    Only parseParts s (s.decodeFragment l b) := by
  unfold State.decodeFragment; split
  · exact Only.refl _ s
  · split
    · exact (s.takeEvent_only _ _).mono (by decide)
    · exact (s.numberWarning_only l _).next (State.takeRecordFragment_only _ _ _) (by decide) (by decide)

theorem State.sweepTest_only (s : State) (i : Nat) : Only closeParts s (s.sweepTest i) := by
  unfold State.sweepTest; dsimp only; split
  · split
    · exact (s.closeRecord_only _ _ _).next (State.post_only _ _) (by decide) (by decide)
    · exact (s.setStream_only _ _).mono (by decide)
  · exact Only.refl _ s

/-! ## Trigger lines -/

/-- What a filtered transition changes. -/
abbrev lineParts : List Part := .lines :: (openParts ++ flushParts)

theorem State.fire_only (s : State) (l : LineNo) (v : TriggerSettings) (m n : Nat) :
    Only lineParts s (s.fire l v m n) := by
  unfold State.fire; dsimp only; split
  · exact (s.placeEvent_only _ _ _ _).next (State.openRequest_only _ _) (by decide) (by decide)
  · split
    · exact (s.placeEvent_only _ _ _ _).next (State.enterFlush_only _ _ _) (by decide) (by decide)
    · exact (s.placeEvent_only _ _ _ _).mono (by decide)
  · exact (s.placeEvent_only _ _ _ _).mono (by decide)

theorem State.activeEdge_only (s : State) (l : LineNo) (m n : Nat) : Only lineParts s (s.activeEdge l m n) := by
  unfold State.activeEdge; dsimp only; split
  · exact Only.refl _ s
  · split
    · exact (s.setLine_only l _).mono (by decide)
    · exact (s.setLine_only l _).next (State.fire_only _ _ _ _ _) (by decide) (by decide)

theorem State.filteredTransition_only (s : State) (l : LineNo) (v : Bool) (m n : Nat) :
    Only lineParts s (s.filteredTransition l v m n) := by
  unfold State.filteredTransition; dsimp only; split
  · exact (s.setLine_only l _).next (State.activeEdge_only _ _ _ _) (by decide) (by decide)
  · exact (s.setLine_only l _).mono (by decide)

/-! ## Power -/

/-- What a change of the power state changes. -/
abbrev powerParts : List Part :=
  .monitor :: .powerCounters :: .port :: .low :: (openParts ++ flushParts ++ replyParts)

theorem State.storeScan_only (s : State) (a b : Nat) : Only [.monitor, .powerCounters, .budget] s (s.storeScan a b) := by
  intro p h; cases p <;> first | rfl | exact ⟨rfl, rfl⟩ | exact absurd (by decide) h

theorem State.endServiceAtLoss_only (s : State) : Only (.port :: .low :: replyParts) s s.endServiceAtLoss := by
  unfold State.endServiceAtLoss; split
  · split
    · exact (s.setPort_only _).next (State.endRefused_only _) (by decide) (by decide)
    · intro p h; cases p <;> first | rfl | exact ⟨rfl, rfl⟩ | exact absurd (by decide) h
  · exact Only.refl _ s

theorem State.epochPowerEvent_only (s : State) : Only powerParts s s.epochPowerEvent := by
  unfold State.epochPowerEvent; split
  · split
    · exact (s.openRequest_only _).mono (by decide)
    · exact Only.refl _ s
  · exact (s.enterFlush_only _ _).mono (by decide)
  · unfold State.cutGrace; split
    · exact Only.refl _ s
    · dsimp only; split
      · exact s.closeStreams_only.mono (by decide)
      · split
        · exact (s.setEpoch_only _).mono (by decide)
        · exact Only.refl _ s
  · exact Only.refl _ s

theorem State.mainLost_only (s : State) : Only powerParts s s.mainLost := by
  unfold State.mainLost; dsimp only
  refine Only.trans ?_ (State.epochPowerEvent_only _)
  refine Only.trans ?_ ((State.endServiceAtLoss_only _).mono (by decide))
  refine Only.trans ?_ ((State.ownEvent_only _ _ _ _).mono (by decide))
  refine Only.trans ?_ ((State.evalLow_only _).mono (by decide))
  intro p h; cases p <;> first | rfl | exact ⟨rfl, rfl⟩ | exact absurd (by decide) h

theorem State.mainRestored_only (s : State) : Only powerParts s s.mainRestored := by
  unfold State.mainRestored; dsimp only
  refine Only.trans ?_ ((State.ownEvent_only _ _ _ _).mono (by decide))
  refine Only.trans ?_ ((State.evalLow_only _).mono (by decide))
  intro p h; cases p <;> first | rfl | exact ⟨rfl, rfl⟩ | exact absurd (by decide) h

theorem State.declare_only (s : State) (v : Verdict) : Only powerParts s (s.declare v) := by
  cases v with
  | count n => exact (s.setMonitor_only _).mono (by decide)
  | lost => exact s.mainLost_only
  | restored => exact s.mainRestored_only

/-! ## Requests that use the flash -/

/-- What a flash request's progress changes, apart from the flash itself. -/
abbrev jobParts : List Part := .port :: .store :: .low :: .directory :: .examDue :: .imageSeq :: .freeIndex :: replyParts

theorem State.takeStep_only (s : State) (e : Bool) (j : JobStep) : Only jobParts s (s.takeStep e j) := by
  unfold State.takeStep; split
  · split
    · exact (s.serverReply_only _ _).mono (by decide)
    · exact (s.claimService_only _ _).mono (by decide)
  · exact (s.serverReply_only _ _).mono (by decide)
  · refine Only.trans ?_ ((State.serverReply_only _ _ _).mono (by decide))
    intro p h; cases p <;> first | rfl | exact ⟨rfl, rfl⟩ | exact absurd (by decide) h

theorem State.releaseNext_only (s : State) (u m : Nat) : Only jobParts s (s.releaseNext u m) := by
  unfold State.releaseNext; split
  · split
    · exact (s.claimService_only _ _).mono (by decide)
    · exact (s.serverReply_only _ _).mono (by decide)
  · exact (s.serverReply_only _ _).mono (by decide)

theorem State.markReleased_only (s : State) : Only [.store, .low] s s.markReleased := by
  unfold State.markReleased; split
  · exact Only.refl _ s
  · refine Only.trans ?_ ((State.evalLow_only _).mono (by decide))
    exact s.setStore_only _

theorem State.releaseMarkDone_only (s : State) (u m : Nat) (e : Bool) : Only jobParts s (s.releaseMarkDone u m e) := by
  unfold State.releaseMarkDone; dsimp only; split
  · exact (s.markReleased_only).next (State.serverReply_only _ _ _) (by decide) (by decide)
  · exact (s.markReleased_only).next (State.releaseNext_only _ _ _) (by decide) (by decide)

theorem State.saveNext_only (s : State) (i : List Byte) (n : Nat) (e : Bool) : Only jobParts s (s.saveNext i n e) := by
  unfold State.saveNext; split
  · exact (s.serverReply_only _ _).mono (by decide)
  · split
    · exact (s.claimService_only _ _).mono (by decide)
    · refine Only.trans ?_ ((State.serverReply_only _ _ _).mono (by decide))
      intro p h; cases p <;> first | rfl | exact ⟨rfl, rfl⟩ | exact absurd (by decide) h

theorem State.leaveLog_only (s : State) : Only [.store] s s.leaveLog := by
  intro p h; cases p <;> first | rfl | exact ⟨rfl, rfl⟩ | exact absurd (by decide) h

theorem State.dropRecords_only (s : State) (n : Nat) : Only [.store] s (s.dropRecords n) := by
  intro p h; cases p <;> first | rfl | exact ⟨rfl, rfl⟩ | exact absurd (by decide) h

theorem State.eraseDone_only (s : State) (n : Nat) : Only jobParts s (s.eraseDone n) := by
  unfold State.eraseDone; split
  · exact Only.refl _ s
  · refine Only.trans ?_ ((State.evalLow_only _).mono (by decide))
    refine Only.trans ?_ ((State.setExamDue_only _ _).mono (by decide))
    exact (s.setDir_only _ _).next (((State.dropRecords_only _ _).trans (State.leaveLog_only _)).next (State.growRun_only _)
      (by decide) (by decide) : Only [.store] _ _) (by decide) (by decide)

theorem State.formatReset_only (s : State) : Only [.directory, .store] s s.formatReset := by
  intro p h; cases p <;> first | rfl | exact ⟨rfl, rfl⟩ | exact absurd (by decide) h

theorem State.formatNext_only (s : State) (xs : List Nat) : Only jobParts s (s.formatNext xs) := by
  unfold State.formatNext; split
  · exact (s.claimService_only _ _).mono (by decide)
  · refine Only.trans ?_ ((State.evalLow_only _).mono (by decide))
    exact (s.formatReset_only).next (State.serverReply_only _ _ _) (by decide) (by decide)

theorem State.formatEraseDone_only (s : State) (xs : List Nat) (e : Bool) :
    Only jobParts s (s.formatEraseDone xs e) := by
  unfold State.formatEraseDone; split
  · exact (s.serverReply_only _ _).next (State.evalLow_only _) (by decide) (by decide)
  · exact s.formatNext_only xs

/-! ## Completions -/

/-- What a completion changes, apart from the flash itself. -/
abbrev doneParts : List Part := jobParts ++ examineParts

theorem State.freePort_only (s : State) : Only [.port] s s.freePort := s.setPort_only _

theorem State.servicePageDone_only (s : State) : Only (.commit :: jobParts) s s.servicePageDone := by
  unfold State.servicePageDone; dsimp only; split
  · exact (s.setCommit_only _).next (State.saveNext_only _ _ _ _) (by decide) (by decide)
  · exact (s.setCommit_only _).mono (by decide)

theorem State.pageProgrammed_only (s : State) (x : OpInFlight) : Only (.flash :: doneParts) s (s.pageProgrammed x) := by
  unfold State.pageProgrammed; dsimp only
  refine Only.trans ?_ ((State.finish_only _).mono (by decide))
  refine Only.trans ?_ ((State.settlePort_only _).mono (by decide))
  split
  · exact (s.programPage_only _ _).next (State.writerPageDone_only _) (by decide) (by decide)
  · exact (s.programPage_only _ _).next (State.servicePageDone_only _) (by decide) (by decide)

theorem State.writerStateByteDone_only (s : State) : Only validParts s s.writerStateByteDone := by
  unfold State.writerStateByteDone; split
  · exact s.recordValid_only _
  · exact Only.refl _ s

theorem State.serviceStateByteDone_only (s : State) : Only jobParts s s.serviceStateByteDone := by
  unfold State.serviceStateByteDone; split
  · exact s.releaseMarkDone_only _ _ _
  · exact Only.refl _ s

theorem State.stateByteProgrammed_only (s : State) (x : OpInFlight) :
    Only (.flash :: doneParts) s (s.stateByteProgrammed x) := by
  unfold State.stateByteProgrammed; dsimp only; split
  · refine Only.trans ?_ ((State.finish_only _).mono (by decide))
    refine Only.trans ?_ ((State.writerGoesOn_only _).mono (by decide))
    refine Only.trans ?_ ((State.settlePort_only _).mono (by decide))
    exact (s.programPage_only _ _).next (State.writerStateByteDone_only _) (by decide) (by decide)
  · refine Only.trans ?_ ((State.finish_only _).mono (by decide))
    refine Only.trans ?_ ((State.settlePort_only _).mono (by decide))
    exact (s.programPage_only _ _).next (State.serviceStateByteDone_only _) (by decide) (by decide)

theorem State.pageRead_only (s : State) (x : OpInFlight) : Only doneParts s (s.pageRead x) := by
  unfold State.pageRead; dsimp only
  refine Only.trans ?_ ((State.finish_only _).mono (by decide))
  refine Only.trans ?_ ((State.settlePort_only _).mono (by decide))
  split
  · split
    · exact (s.takeStep_only _ _).mono (by decide)
    · exact Only.refl _ s
  · exact Only.refl _ s

theorem State.serviceEraseDone_only (s : State) : Only jobParts s s.serviceEraseDone := by
  unfold State.serviceEraseDone; split
  · exact s.saveNext_only _ _ _
  · exact s.formatEraseDone_only _ _
  · exact Only.refl _ s

/-- Granting the claims that wait at the end of an erase changes the port alone. -/
theorem State.grantWaiting_only (s : State) : Only [.port] s s.grantWaiting :=
  (s.setPort_only _).trans (State.grant_only _)

theorem State.sectorErased_only (s : State) (x : OpInFlight) : Only (.flash :: doneParts) s (s.sectorErased x) := by
  have h : Only (.flash :: doneParts) s ((s.eraseSector (x.op.page / 256)).eraseDone (x.op.page / 256)) :=
    (s.eraseSector_only _).next (State.eraseDone_only _ _) (by decide) (by decide)
  unfold State.sectorErased; dsimp only
  refine Only.trans ?_ ((State.finish_only _).mono (by decide))
  refine Only.trans ?_ ((State.grantWaiting_only _).mono (by decide))
  split
  · exact h.trans ((State.serviceEraseDone_only _).mono (by decide))
  · exact h

/-! ## CONFIGURE -/

/-- What a CONFIGURE changes. -/
abbrev configureParts : List Part := .lines :: .budget :: .monitor :: .epoch :: .low :: (laneParts ++ applyParts)

theorem State.writeRun_only (v : StreamSettings) : ∀ (n i : Nat) (s : State), Only [.streams] s (s.writeRun v n i)
  | 0, _, s => Only.refl _ s
  | n + 1, i, s => (s.setStream_only i _).trans (State.writeRun_only v n (i + 1) _)

theorem State.configure_only (s : State) (w : ConfigWrite) : Only configureParts s (s.configure w).2 := by
  cases w with
  | lane i m d p r =>
    show Only _ s (s.writeLane i m d p r).2
    unfold State.writeLane; split
    · split
      · exact Only.refl _ s
      · split
        · exact Only.refl _ s
        · exact (s.reconfigureLane_only _ _).mono (by decide)
    · exact Only.refl _ s
  | trigger i p f n m =>
    show Only _ s (s.writeTrigger i p f n m).2
    unfold State.writeTrigger; split
    · split
      · exact Only.refl _ s
      · split
        · exact Only.refl _ s
        · exact (s.setLine_only _ _).mono (by decide)
    · exact Only.refl _ s
  | domain i v o b e =>
    show Only _ s (s.writeDomain i _).2
    unfold State.writeDomain; dsimp only; split
    · exact Only.refl _ s
    · split
      · exact Only.refl _ s
      · split
        · exact Only.refl _ s
        · intro p h; cases p <;> first | rfl | exact ⟨rfl, rfl⟩ | exact absurd (by decide) h
  | primary e o d x =>
    show Only _ s (s.writePrimary _).2
    unfold State.writePrimary; split
    · exact Only.refl _ s
    · split
      · exact Only.refl _ s
      · intro p h; cases p <;> first | rfl | exact ⟨rfl, rfl⟩ | exact absurd (by decide) h
  | streams f c e b =>
    show Only _ s (s.writeStreams f c e b).2
    unfold State.writeStreams; split
    · exact Only.refl _ s
    · split
      · exact Only.refl _ s
      · exact (State.writeRun_only _ _ _ s).mono (by decide)
  | aging f l i m =>
    show Only _ s (s.writeAging f l i m).2
    unfold State.writeAging; dsimp only; split
    · exact Only.refl _ s
    · show Only _ s (if s.holdsWrites then _ else _)
      split
      · intro p h; cases p <;> first | rfl | exact ⟨rfl, rfl⟩ | exact absurd (by decide) h
      · exact (s.applyAging_only _).mono (by decide)
  | pool r => intro p h; cases p <;> first | rfl | exact ⟨rfl, rfl⟩ | exact absurd (by decide) h
  | budget a b c d e f =>
    show Only _ s (s.writeBudget a b c d e f).2
    unfold State.writeBudget; split
    · exact Only.refl _ s
    · split
      · exact Only.refl _ s
      · exact (s.setBudget_only _).next (State.recomputeEnergy_only _) (by decide) (by decide)
  | adc a b c d =>
    show Only _ s (s.writeAdc a b c d).2
    unfold State.writeAdc; dsimp only; split
    · exact Only.refl _ s
    · split
      · exact Only.refl _ s
      · exact (s.setMonitor_only _).mono (by decide)
  | epoch a b c d e f g =>
    show Only _ s (s.writeEpoch a b c d e f g).2
    unfold State.writeEpoch; split
    · exact Only.refl _ s
    · split
      · exact Only.refl _ s
      · exact (s.setEpoch_only _).next (State.evalLow_only _) (by decide) (by decide)

/-! ## The server -/

/-- What serving a request changes. -/
abbrev serveParts : List Part := .requests :: .anchor :: .reassembly :: (jobParts ++ configureParts ++ examineParts)

theorem State.counterGroup_only (s : State) (g : CounterGroup) (i : Nat) (b : List Byte) (t : State)
    (h : s.counterGroup g i = some (b, t)) : Only serveParts s t := by
  unfold State.counterGroup at h
  split at h
  case h_1 =>
    split at h
    · cases h; exact (s.setLane_only _ _).mono (by decide)
    · cases h
  case h_2 =>
    split at h
    · cases h; exact (s.setLine_only _ _).mono (by decide)
    · cases h
  all_goals (cases h; intro p h; cases p <;> first | rfl | exact ⟨rfl, rfl⟩ | exact absurd (by decide) h)

theorem State.serveOwn_only (s : State) (q : Queued) : Only serveParts s (s.serveOwn q) := by
  have reply (t : State) (x : Status) (b : List Byte) : Only serveParts t (t.serverReply x b) :=
    (t.serverReply_only x b).mono (by decide)
  have done (t : State) : Only serveParts t t.finish := t.finish_only.mono (by decide)
  have settle (t : State) : Only serveParts t t.settlePort := t.settlePort_only.mono (by decide)
  unfold State.serveOwn; split
  · exact Only.refl _ s
  · exact Only.refl _ s
  · exact reply s _ _
  · exact reply s _ _
  · exact (s.configure_only _).next (reply _ _ _) (by decide) (by decide)
  · exact reply s _ _
  · unfold State.serveSaveConfig; split
    · exact reply s _ _
    · exact Only.trans ((s.claimService_only _ _).mono (by decide)) (settle _)
  · unfold State.serveSetTime; split
    · exact reply s _ _
    · refine Only.trans ?_ (reply _ _ _)
      intro p h; cases p <;> first | rfl | exact ⟨rfl, rfl⟩ | exact absurd (by decide) h
  · unfold State.serveClearTime
    refine Only.trans ?_ (reply _ _ _)
    intro p h; cases p <;> first | rfl | exact ⟨rfl, rfl⟩ | exact absurd (by decide) h
  · unfold State.serveGetTime; split
    · exact reply s _ _
    · refine Only.trans ?_ (reply _ _ _)
      intro p h; cases p <;> first | rfl | exact ⟨rfl, rfl⟩ | exact absurd (by decide) h
  · unfold State.serveLog; split
    · exact reply s _ _
    · exact Only.trans ((s.placeEvent_only _ _ _ _).mono (by decide)) (reply _ _ _)
  · have h : Only serveParts s (s.openRequest .service) := (s.openRequest_only _).mono (by decide)
    unfold State.serveOpen; dsimp only; split
    · split
      · exact (h.trans (reply _ _ _)).trans (done _)
      · exact h.trans (reply _ _ _)
    · exact h.trans (reply _ _ _)
  · unfold State.serveFlush; split
    · exact Only.trans (Only.trans ((s.enterFlush_only _ _).mono (by decide)) (reply _ _ _)) (done _)
    · split
      · exact Only.trans (Only.trans (s.closeStreams_only.mono (by decide)) (reply _ _ _)) (done _)
      · exact reply s _ _
    · exact reply s _ _
  · unfold State.serveRearm; split
    · split
      · exact Only.trans ((s.rearm_only _).mono (by decide)) (reply _ _ _)
      · exact reply s _ _
    · exact reply s _ _
  · unfold State.serveListRecords; split
    · exact reply s _ _
    · exact Only.trans ((s.takeStep_only _ _).mono (by decide)) (settle _)
  · unfold State.serveReadRecord; split
    · exact reply s _ _
    · exact Only.trans ((s.takeStep_only _ _).mono (by decide)) (settle _)
  · exact Only.trans ((s.takeStep_only _ _).mono (by decide)) (settle _)
  · unfold State.serveRelease; split
    · exact reply s _ _
    · split
      · exact reply s _ _
      · split
        · exact reply s _ _
        · split
          · exact reply s _ _
          · split
            · exact reply s _ _
            · exact Only.trans ((s.releaseNext_only _ _).mono (by decide)) (settle _)
  · unfold State.serveFormat; split
    · exact reply s _ _
    · refine Only.trans ?_ (settle _)
      exact (s.formatNext_only _).next (State.evalLow_only _) (by decide) (by decide)
  · unfold State.serveReadStream; split
    · exact reply s _ _
    · refine Only.trans ?_ (reply _ _ _)
      split
      · exact (s.setStream_only _ _).mono (by decide)
      · exact Only.refl _ s
  · unfold State.serveTakeAnomalies; split
    · exact reply s _ _
    · exact Only.trans ((s.setAnomalies_only _).mono (by decide)) (reply _ _ _)
  · unfold State.serveReadHistory; split
    · exact reply s _ _
    · exact reply s _ _
  · unfold State.serveCounters; split
    · exact reply s _ _
    · rename_i heq
      refine Only.trans ?_ (reply _ _ _)
      split
      · exact s.counterGroup_only _ _ _ _ heq
      · exact Only.refl _ s
  · unfold State.serveWait; dsimp only; split
    · refine Only.trans ?_ (reply _ _ _)
      intro p h; cases p <;> first | rfl | exact ⟨rfl, rfl⟩ | exact absurd (by decide) h
    · split
      · exact reply s _ _
      · intro p h; cases p <;> first | rfl | exact ⟨rfl, rfl⟩ | exact absurd (by decide) h
  · unfold State.serveRestart; split
    · exact reply s _ _
    · exact (s.replyWith_only _ _ _).mono (by decide)

theorem State.serve_only (s : State) (q : Queued) : Only serveParts s (s.serve q) := by
  unfold State.serve; split
  · exact (s.serverReply_only _ _).mono (by decide)
  · exact s.serveOwn_only q

theorem State.serveNext_only : ∀ (n : Nat) (s : State), Only serveParts s (State.serveNext n s)
  | 0, s => Only.refl _ s
  | n + 1, s => by
    unfold State.serveNext; split
    · exact (s.serve_only _).trans (State.serveNext_only n _)
    · exact Only.refl _ s

theorem State.serveAll_only (s : State) : Only serveParts s s.serveAll := State.serveNext_only _ s

theorem State.arrive_only (s : State) (r : Request) (tag : Byte) : Only serveParts s (s.arrive r tag) := by
  unfold State.arrive; dsimp only; split
  · refine Only.trans ?_ (State.serveAll_only _)
    intro p h; cases p <;> first | rfl | exact ⟨rfl, rfl⟩ | exact absurd (by decide) h
  · intro p h; cases p <;> first | rfl | exact ⟨rfl, rfl⟩ | exact absurd (by decide) h

/-! ## The frame receiver -/

theorem State.setLink_only (s : State) (l : Link) :
    Only [.link, .requests, .server, .tx, .parked] s { s with link := l } := by
  intro p h; cases p <;> first | rfl | exact ⟨rfl, rfl⟩ | exact absurd (by decide) h

theorem State.linkGood_only (s : State) (b : Byte) : Only serveParts s (s.linkGood b) := by
  have drop (t : State) (rx : LinkRx) (c : LinkCounters → LinkCounters) : Only serveParts t (t.dropFrame rx c) := by
    intro p h; cases p <;> first | rfl | exact ⟨rfl, rfl⟩ | exact absurd (by decide) h
  have store (t : State) : Only serveParts t (t.storeFrameByte b) := by
    unfold State.storeFrameByte; split
    · intro p h; cases p <;> first | rfl | exact ⟨rfl, rfl⟩ | exact absurd (by decide) h
    · exact drop t _ _
  have stuffed (t : State) : Only serveParts t (t.storeFrameByte (b ^^^ 0x20)) := by
    unfold State.storeFrameByte; split
    · intro p h; cases p <;> first | rfl | exact ⟨rfl, rfl⟩ | exact absurd (by decide) h
    · exact drop t _ _
  unfold State.linkGood; split
  · split
    · intro p h; cases p <;> first | rfl | exact ⟨rfl, rfl⟩ | exact absurd (by decide) h
    · exact Only.refl _ s
  · split
    · exact Only.refl _ s
    · split
      · intro p h; cases p <;> first | rfl | exact ⟨rfl, rfl⟩ | exact absurd (by decide) h
      · refine Only.trans ?_ (store _)
        intro p h; cases p <;> first | rfl | exact ⟨rfl, rfl⟩ | exact absurd (by decide) h
  · unfold State.gatherByte; split
    · split
      · exact stuffed s
      · exact drop s _ _
    · split
      · unfold State.endFrame; dsimp only; split
        · exact drop s _ _
        · split
          · exact drop s _ _
          · exact (drop s _ _).trans (State.arrive_only _ _ _)
      · split
        · intro p h; cases p <;> first | rfl | exact ⟨rfl, rfl⟩ | exact absurd (by decide) h
        · exact store s

theorem State.linkError_only (s : State) : Only serveParts s s.linkError := by
  unfold State.linkError; split
  · exact Only.refl _ s
  · intro p h; cases p <;> first | rfl | exact ⟨rfl, rfl⟩ | exact absurd (by decide) h

/-! ## Recovery -/

/-- What recovery's programs change. -/
abbrev recoverParts : List Part := .store :: .directory :: faultParts

theorem Run.program_only (r : Run) (w : Option (Nat × RecoveryCut)) (op : FlashOp) :
    Only recoverParts r.st (r.program w op).1.st := by
  have whole (n : Nat) : Only recoverParts r.st
      { r.st.programPage op.page op.data with commit := { (r.st.programPage op.page op.data).commit with pages := n } } :=
    (State.programPage_only _ _ _).next (State.setCommit_only _ _) (by decide) (by decide)
  unfold Run.program; dsimp only; split
  · exact Only.refl _ _
  · split
    · split
      · exact (State.flashFault_only _ _ _).mono (by decide)
      · exact whole _
    · split
      · exact (State.interruptOp_only _ _).mono (by decide)
      · exact whole _
    · exact whole _

theorem Run.tear_only (r : Run) (w : Option (Nat × RecoveryCut)) (p : Nat) : Only recoverParts r.st (r.tear w p).st :=
  (r.program_only w _).next (State.setStore_only _ _) (by decide) (by decide)

theorem State.losePages_only (s : State) (n : Nat) : Only [.store, .low] s (s.losePages n) := s.setStore_only _

theorem walk_only (w : Option (Nat × RecoveryCut)) : ∀ (n : Nat) (prev : Option Nat) (p : Nat) (r : Run) (acc : List Accepted),
    Only recoverParts r.st (walk w n prev p r acc).run.st
  | 0, _, _, _, _ => Only.refl _ _
  | n + 1, prev, p, r, acc => by
    have lost : Only recoverParts r.st (match r.walkLost p with
        | (r', some q) => walk w n prev q r' acc
        | (r', none) => (⟨r', acc, r'.st.afterNewest⟩ : Walked)).run.st := by
      have h : Only recoverParts r.st (r.walkLost p).1.st := (State.losePages_only _ _).mono (by decide)
      split
      · rename_i heq; rw [heq] at h; exact h.trans (walk_only w n _ _ _ _)
      · rename_i heq; rw [heq] at h; exact h
    unfold walk; dsimp only; split
    · exact Only.refl _ _
    · exact lost
    · exact lost
    · rename_i h _
      have torn (b : Bool) : Only recoverParts r.st (if b then r.tear w p else r).st := by
        split
        · exact r.tear_only w p
        · exact Only.refl _ _
      split
      · exact (torn _).trans (walk_only w n _ _ _ _)
      · exact torn _

theorem recheck_only (w : Option (Nat × RecoveryCut)) (n : Nat) : ∀ (xs : List Accepted) (r : Run),
    Only recoverParts r.st (recheck w n xs r).2.st
  | [], _ => Only.refl _ _
  | x :: xs, r => by
    unfold recheck; split
    · exact (r.tear_only w _).trans (recheck_only w n xs _)
    · exact recheck_only w n xs r

theorem blankFollowing_only : ∀ (n sector run : Nat) (s : State),
    Only [.directory] s (blankFollowing n sector run s).1
  | 0, _, _, s => Only.refl _ s
  | n + 1, sector, run, s => by
    unfold blankFollowing; split
    · exact Only.refl _ s
    · split
      · exact (s.setDir_only _ _).trans (blankFollowing_only n _ _ _)
      · exact s.setDir_only _ _

theorem State.damage_only (s : State) (n : Nat) : Only [.directory] s (s.damage n) := by
  unfold State.damage; split
  · exact Only.refl _ s
  · exact s.setDir_only _ _

theorem blankCheck_only : ∀ (n tail : Nat) (s : State), Only [.store, .low, .directory] s (blankCheck n tail s)
  | 0, _, s => s.setStore_only _ |>.mono (by decide)
  | n + 1, tail, s => by
    have stop (t : State) (run : Nat) : Only [.store, .low, .directory] t
        { t with store := { t.store with tail := tail, erasedRun := run } } := (t.setStore_only _).mono (by decide)
    unfold blankCheck; dsimp only; split
    · exact stop s 0
    · split
      · split
        · refine Only.trans ?_ (stop _ _)
          refine Only.trans ?_ ((blankFollowing_only _ _ _ _).mono (by decide))
          split
          · exact (s.setDir_only _ _).mono (by decide)
          · exact Only.refl _ s
        · exact ((s.damage_only _).mono (by decide)).trans (stop _ 0)
      · refine Only.trans ?_ (blankCheck_only n _ _)
        exact (s.damage_only _).next (State.losePages_only _ _) (by decide) (by decide)

theorem State.setPointers_only (s : State) (xs : List Accepted) (n : Nat) :
    Only [.store, .low, .epoch] s (s.setPointers xs n) := by
  unfold State.setPointers; dsimp only
  refine Only.trans ?_ ((State.evalLow_only _).mono (by decide))
  refine Only.trans ?_ ((State.evalExhausted_only _).mono (by decide))
  intro p h; cases p <;> first | rfl | exact ⟨rfl, rfl⟩ | exact absurd (by decide) h

theorem writeMark_only (w : Option (Nat × RecoveryCut)) : ∀ (n : Nat) (f : InFlight) (r : Run),
    Only recoverParts r.st (writeMark w n f r).st
  | 0, _, _ => Only.refl _ _
  | n + 1, f, r => by
    have h := r.program_only w (r.st.writerOp f)
    unfold writeMark; split
    · rename_i heq; rw [heq] at h; exact h
    · rename_i r' heq; rw [heq] at h
      refine Only.trans h ?_
      dsimp only; split
      · exact (State.recordPointers_only _ _).mono (by decide)
      · have restore (t u : State) : Only recoverParts t (t.uncounted u) :=
          ((t.setBudget_only u.budget).next (State.setWriter_only _ u.writer) (by decide) (by decide) :
            Only recoverParts _ _).trans ((State.setCommit_only _ u.commit).mono (by decide))
        split
        · refine Only.trans ?_ (writeMark_only w n _ _)
          exact Only.trans ((State.markDone_only _ f).mono (by decide)) (restore _ _)
        · refine Only.trans ?_ (writeMark_only w n _ _)
          exact Only.trans ((State.frameDone_only _ f).mono (by decide)) (restore _ _)

theorem Run.closeInterrupted_only (r : Run) (w : Option (Nat × RecoveryCut)) (xs : List Accepted) (n : Nat) :
    Only recoverParts r.st (r.closeInterrupted w xs n).st := by
  unfold Run.closeInterrupted; split
  · exact Only.refl _ _
  · dsimp only; split
    · exact (State.postPlain_only _ _ _ _).mono (by decide)
    · exact writeMark_only w _ _ _

/-- What the whole of recovery changes. -/
abbrev startUpParts : List Part := .recovering :: (recoverParts ++ examineParts)

theorem State.startUp_only (s : State) : Only startUpParts s s.startUp := by
  have h : Only startUpParts s ({ s with recovering := false } : State).evalLow := by
    refine Only.trans ?_ ((State.evalLow_only _).mono (by decide))
    intro p h; cases p <;> first | rfl | exact ⟨rfl, rfl⟩ | exact absurd (by decide) h
  unfold State.startUp; dsimp only
  refine Only.trans ?_ ((State.finish_only _).mono (by decide))
  split
  · exact h.trans ((State.rearm_only _ _).mono (by decide))
  · exact h

theorem Run.walkLog_only (r : Run) (w : Option (Nat × RecoveryCut)) : Only recoverParts r.st (r.walkLog w).run.st := by
  unfold Run.walkLog; split
  · exact walk_only _ _ _ _ _ _
  · exact Only.refl _ _

theorem State.setDirectory_only (s : State) (d : Table DirEntry 512) :
    Only [.directory] s { s with directory := d } := by
  intro p h; cases p <;> first | rfl | exact ⟨rfl, rfl⟩ | exact absurd (by decide) h

theorem State.markScan_only (s : State) : Only [.directory] s s.markScan := s.setDirectory_only _

theorem State.damageUnknown_only (s : State) : Only [.directory] s s.damageUnknown := by
  intro p h; cases p <;> first | rfl | exact ⟨rfl, rfl⟩ | exact absurd (by decide) h

/-- Recovery up to its close mark. -/
theorem State.recover_only (s : State) (w : Option (Nat × RecoveryCut)) : Only recoverParts s (s.recover w).st := by
  unfold State.recover; dsimp only
  have walked : Only recoverParts s ((Run.walkLog ⟨s.markScan, 0, false⟩ w).run.st) :=
    s.markScan_only.next (Run.walkLog_only _ _) (by decide) (by decide)
  generalize Run.walkLog ⟨s.markScan, 0, false⟩ w = v at walked ⊢
  have checked : Only recoverParts s (recheck w (newestEpoch v.run.st v.newestFirst) v.newestFirst.reverse v.run).2.st :=
    walked.trans (recheck_only _ _ _ _)
  generalize newestEpoch v.run.st v.newestFirst = n at checked ⊢
  generalize recheck w n v.newestFirst.reverse v.run = x at checked ⊢
  split
  · exact checked
  have blank : Only recoverParts s (blankCheck 511 v.tail x.2.st).damageUnknown :=
    Only.trans (checked.trans ((blankCheck_only _ _ _).mono (by decide))) ((State.damageUnknown_only _).mono (by decide))
  generalize (blankCheck 511 v.tail x.2.st).damageUnknown = y at blank ⊢
  have set : Only recoverParts s (y.setPointers x.1 n) := blank.trans ((State.setPointers_only _ _ _).mono (by decide))
  generalize y.setPointers x.1 n = z at set ⊢
  exact set.trans (Run.closeInterrupted_only { x.2 with st := z } _ _ _)

/-- Recovery that no reset stops. -/
theorem execRecovery_only (program : Option Nat) (cut : RecoveryCut) (s t : State)
    (hw : ∀ a b, program = none ∨ cut ≠ .reset a b) (h : execRecovery program cut s = .next t) : Only startUpParts s t := by
  unfold execRecovery at h
  split at h
  · dsimp only at h
    split at h
    · exact (hw _ _).elim (fun n => by cases n) fun n => absurd rfl n
    · rw [← Host.Outcome.next.inj h]
      exact ((s.recover_only _).mono fun p hp => List.mem_cons_of_mem _ (List.mem_append_left _ hp)).trans
        (State.startUp_only _)
  · cases h; exact Only.refl _ _

end Sys2Proof.Machine
end

