-- ==== Sys2Proof/Laws/Capacity.lean ====
section
/-! SUPPORT. Laws/Capacity.lean: the operations on the part's queues and rings keep them within their capacities; an operation
that changes none of them keeps them by its frame. -/

namespace Sys2Proof.Machine

/-- An operation that leaves the queues alone keeps their capacities. -/
theorem Only.withinCapacity {fs : List Part} {s t : State} (h : Only fs s t) (hs : s.WithinCapacity)
    (out : ∀ p ∈ [Part.queue, Part.history, Part.anomalies, Part.requests], p ∉ fs) : t.WithinCapacity := by
  have hq : t.queue = s.queue := h .queue (out _ (by decide))
  have hh : t.history = s.history := h .history (out _ (by decide))
  have ha : t.anomalies = s.anomalies := h .anomalies (out _ (by decide))
  have hl : t.link.queue = s.link.queue := h .requests (out _ (by decide))
  unfold State.WithinCapacity
  rw [hq, hh, ha, hl]
  exact hs

/-- A history with its ring and list within their capacities. -/
def History.Fits (h : History) : Prop := h.ring.length ≤ ringCapacity ∧ h.list.length ≤ listCapacity

theorem History.pushRing_fits {h : History} (e : HEntry) (hf : h.Fits) : (h.pushRing e).Fits := by
  unfold History.pushRing; split
  · rename_i hlt
    exact ⟨by simp only [List.length_append, List.length_singleton]; omega, hf.2⟩
  · refine ⟨?_, hf.2⟩
    have := hf.1
    have : 0 < ringCapacity := by decide
    simp only [List.length_append, List.length_singleton, List.length_drop]
    omega

theorem History.place_fits {h : History} (n : Nat) (o : Origin) (c : Nat) (d : List Byte) (hf : h.Fits) :
    (h.place n o c d).Fits := by
  unfold History.place; dsimp only
  split
  · exact h.pushRing_fits _ hf
  · rename_i hp
    refine ⟨hf.1, ?_⟩
    have : h.list.length < listCapacity := by
      unfold History.placeOf at hp
      split at hp
      · split at hp
        · assumption
        · cases hp
      · cases hp
    simp only [List.length_append, List.length_singleton]; omega
  · exact hf

theorem History.foldl_pushRing_fits : ∀ (xs : List HEntry) {h : History}, h.Fits → (xs.foldl History.pushRing h).Fits
  | [], _, hf => hf
  | x :: xs, _, hf => History.foldl_pushRing_fits xs (History.pushRing_fits x hf)

theorem History.merge_fits {h : History} (hf : h.Fits) : h.merge.Fits :=
  ⟨(History.foldl_pushRing_fits h.list hf).1, Nat.zero_le _⟩

theorem History.freeze_fits {h : History} (hf : h.Fits) : h.freeze.Fits := ⟨hf.1, Nat.zero_le _⟩

theorem State.setHistory_fits {s : State} (hs : s.WithinCapacity) {h : History} (hf : h.Fits) :
    ({ s with history := h } : State).WithinCapacity := ⟨hs.1, hf.1, hf.2, hs.2.2.2⟩

theorem State.placeEvent_fits {s : State} (hs : s.WithinCapacity) (n : Nat) (o : Origin) (c : Nat) (d : List Byte) :
    (s.placeEvent n o c d).WithinCapacity :=
  State.setHistory_fits hs (History.place_fits n o c d ⟨hs.2.1, hs.2.2.1⟩)

theorem State.ownEvent_fits {s : State} (hs : s.WithinCapacity) (b : Block) (c : Nat) (d : List Byte) :
    (s.ownEvent b c d).WithinCapacity := State.placeEvent_fits hs _ _ _ _

theorem State.setQueue_fits {s : State} (hs : s.WithinCapacity) {q : List QEntry} (hq : q.length ≤ queueCapacity) :
    ({ s with queue := q } : State).WithinCapacity := ⟨hq, hs.2⟩

theorem State.setAnomalies_fits {s : State} (hs : s.WithinCapacity) {q : Anomalies}
    (hq : q.entries.length ≤ anomalyCapacity) : ({ s with anomalies := q } : State).WithinCapacity :=
  ⟨hs.1, hs.2.1, hs.2.2.1, hq, hs.2.2.2.2⟩

theorem State.post_fits {s : State} (hs : s.WithinCapacity) (a : Anomaly) : (s.post a).WithinCapacity := by
  unfold State.post; dsimp only; split
  · rename_i hlt
    have h (n : Nat) : ({ s with anomalies := { s.anomalies with
        entries := s.anomalies.entries ++ [a], posted := n } } : State).WithinCapacity :=
      State.setAnomalies_fits hs (by simp only [List.length_append, List.length_singleton]; omega)
    split
    · exact (State.tellAnomaly_only _).withinCapacity (h _) (by decide)
    · exact h _
  · exact State.setAnomalies_fits hs hs.2.2.2.1

theorem insertEntry_length (e : QEntry) : ∀ q : List QEntry, (insertEntry e q).length = q.length + 1
  | [] => rfl
  | x :: xs => by
    unfold insertEntry; split
    · simp only [List.length_cons, insertEntry_length e xs]
    · rfl

theorem State.enterQueue_fits {s : State} (hs : s.WithinCapacity) (e : QEntry) (h : s.queue.length < queueCapacity) :
    (s.enterQueue e).WithinCapacity :=
  ⟨by show (insertEntry e s.queue).length ≤ _; rw [insertEntry_length]; exact h, hs.2⟩

theorem State.offerFull_fits {s : State} (hs : s.WithinCapacity) (e : QEntry) : (s.offerFull e).WithinCapacity := by
  unfold State.offerFull; dsimp only; split
  · exact hs
  · rename_i last hlast
    have hne : s.queue ≠ [] := by intro h; rw [h] at hlast; cases hlast
    have hpos : 0 < s.queue.length := List.length_pos_iff.mpr hne
    split
    · have h₁ : ({ s with queue := s.queue.dropLast, commit := { s.commit with
          evicted := satInc max16 s.commit.evicted } } : State).WithinCapacity :=
        ⟨by have := hs.1; simp only [List.length_dropLast]; omega, hs.2⟩
      have h₂ := (State.returnBlocks_only _ last.chain).withinCapacity h₁ (by decide)
      have h₃ := State.post_fits h₂ (last.anomaly .evicted s.tick)
      have h₄ := (State.countLost_only _ last.info).withinCapacity h₃ (by decide)
      refine State.enterQueue_fits h₄ e ?_
      have e₃ := State.post_only (State.returnBlocks { s with queue := s.queue.dropLast, commit := { s.commit with
          evicted := satInc max16 s.commit.evicted } } last.chain) (last.anomaly .evicted s.tick)
      have e₄ := State.countLost_only (State.post (State.returnBlocks { s with queue := s.queue.dropLast, commit :=
          { s.commit with evicted := satInc max16 s.commit.evicted } } last.chain) (last.anomaly .evicted s.tick)) last.info
      have q : (State.countLost (State.post (State.returnBlocks { s with queue := s.queue.dropLast, commit :=
          { s.commit with evicted := satInc max16 s.commit.evicted } } last.chain) (last.anomaly .evicted s.tick))
          last.info).queue = s.queue.dropLast :=
        Part.agree_trans (p := .queue) (e₃ .queue (by decide)) (e₄ .queue (by decide))
      rw [q, List.length_dropLast]
      have := hs.1; omega
    · have h₁ : ({ s with commit := { s.commit with queueFull := satInc max16 s.commit.queueFull } } : State).WithinCapacity :=
        hs
      have h₂ := (State.returnBlocks_only _ e.chain).withinCapacity h₁ (by decide)
      exact (State.countLost_only _ _).withinCapacity (State.post_fits h₂ _) (by decide)

theorem State.offer_fits {s : State} (hs : s.WithinCapacity) (e : QEntry) : (s.offer e).WithinCapacity := by
  unfold State.offer; dsimp only; split
  · rename_i h; exact State.enterQueue_fits ((s.setCommit_only _).withinCapacity hs (by decide)) e h
  · exact State.offerFull_fits ((s.setCommit_only _).withinCapacity hs (by decide)) e

/-! ## Reassembly -/

theorem State.handOver_fits {s : State} (hs : s.WithinCapacity) (e : QEntry) : (s.handOver e).WithinCapacity :=
  State.offer_fits ((s.mapReassembly_only _).withinCapacity hs (by decide)) e

theorem State.closeRecord_fits {s : State} (hs : s.WithinCapacity) (i : Nat) (how : Completion) (n : Nat) :
    (s.closeRecord i how n).WithinCapacity :=
  State.handOver_fits ((s.setStream_only _ _).withinCapacity hs (by decide)) _

theorem State.truncateRecord_fits {s : State} (hs : s.WithinCapacity) (i : Nat) (how : Completion) (n : Nat) :
    (s.truncateRecord i how n).WithinCapacity :=
  State.handOver_fits ((s.setStream_only _ _).withinCapacity hs (by decide)) _

theorem State.dropFragment_fits {s : State} (hs : s.WithinCapacity) (i : Nat) : (s.dropFragment i).WithinCapacity :=
  (s.dropFragment_only i).withinCapacity hs (by decide)

theorem State.dropPosted_fits {s : State} (hs : s.WithinCapacity) (f : RecFragment) (k : AnomalyKind) (d : Nat) :
    (s.dropPosted f k d).WithinCapacity := State.post_fits (State.dropFragment_fits hs _) _

theorem State.admitFragment_fits {s : State} (hs : s.WithinCapacity) (i : Nat) : (s.admitFragment i).WithinCapacity :=
  (s.admitFragment_only i).withinCapacity hs (by decide)

theorem State.appendStore_fits {s : State} (hs : s.WithinCapacity) (i : Nat) (b : List Byte) :
    (s.appendStore i b).WithinCapacity := (s.appendStore_only i b).withinCapacity hs (by decide)

theorem State.takeOpening_fits {s : State} (hs : s.WithinCapacity) (f : RecFragment) :
    (s.takeOpening f).WithinCapacity := by
  have h (v : Stream) : (s.setStream f.stream v).WithinCapacity := (s.setStream_only _ v).withinCapacity hs (by decide)
  unfold State.takeOpening; split
  · unfold State.takeFirst; dsimp only; split
    · exact State.admitFragment_fits (State.appendStore_fits (h _) _ _) _
    · exact State.truncateRecord_fits (State.admitFragment_fits (h _) _) _ _ _
  · unfold State.takeOnly; dsimp only; split
    · exact State.closeRecord_fits (State.admitFragment_fits (State.appendStore_fits (h _) _ _) _) _ _ _
    · exact State.closeRecord_fits (State.admitFragment_fits (h _) _) _ _ _

theorem State.takeNumbered_fits {s : State} (hs : s.WithinCapacity) (f : RecFragment) :
    (s.takeNumbered f).WithinCapacity := by
  have h (v : Stream) : (((s.appendStore f.stream f.frag.payload).setStream f.stream v).admitFragment
      f.stream).WithinCapacity :=
    State.admitFragment_fits ((State.setStream_only _ _ v).withinCapacity (State.appendStore_fits hs _ _) (by decide)) _
  unfold State.takeNumbered; dsimp only; split
  · split
    · exact State.dropFragment_fits (State.closeRecord_fits hs _ _ _) _
    · exact State.dropFragment_fits (State.truncateRecord_fits hs _ _ _) _
  · split
    · exact State.closeRecord_fits (h _) _ _ _
    · split
      · exact State.truncateRecord_fits (h _) _ _ _
      · exact h _

theorem State.takeByState_fits {s : State} (hs : s.WithinCapacity) (f : RecFragment) :
    (s.takeByState f).WithinCapacity := by
  have h (v : Stream) : (s.setStream f.stream v).WithinCapacity := (s.setStream_only _ v).withinCapacity hs (by decide)
  unfold State.takeByState; dsimp only; split
  · exact State.takeOpening_fits hs f
  · exact State.takeOpening_fits hs f
  · exact State.dropPosted_fits hs _ _ _
  · exact State.takeOpening_fits (State.closeRecord_fits hs _ _ _) f
  · exact State.takeOpening_fits (State.closeRecord_fits hs _ _ _) f
  · unfold State.takeContinuation; dsimp only; split
    · exact State.dropPosted_fits hs _ _ _
    · split
      · exact State.dropPosted_fits hs _ _ _
      · exact State.takeNumbered_fits hs f
  · exact State.takeOpening_fits (h _) f
  · exact State.takeOpening_fits (h _) f
  · exact State.dropFragment_fits (h _) _
  · exact State.dropFragment_fits hs _
  · exact State.dropFragment_fits hs _

theorem State.closeAll_fits {s : State} (hs : s.WithinCapacity) : s.closeAll.WithinCapacity := by
  have step {t : State} (ht : t.WithinCapacity) (i : Nat) : (t.closeStream i).WithinCapacity := by
    unfold State.closeStream; split
    · exact State.closeRecord_fits ht _ _ _
    · exact (t.setStream_only _ _).withinCapacity ht (by decide)
    · exact ht
  have all : ∀ (xs : List Nat) {t : State}, t.WithinCapacity → (xs.foldl State.closeStream t).WithinCapacity := by
    intro xs
    induction xs with
    | nil => intro t ht; exact ht
    | cons x xs ih => intro t ht; exact ih (step ht x)
  exact all _ hs

/-! ## The epoch controller -/

theorem State.rearm_fits {s : State} (hs : s.WithinCapacity) (n : Nat) : (s.rearm n).WithinCapacity := by
  unfold State.rearm; dsimp only
  refine (State.tellEpoch_only _).withinCapacity (State.ownEvent_fits ?_ _ _ _) (by decide)
  have hm := History.merge_fits (h := s.history) ⟨hs.2.1, hs.2.2.1⟩
  exact ⟨hs.1, hm.1, hm.2, hs.2.2.2⟩

theorem State.enterClosed_fits {s : State} (hs : s.WithinCapacity) (b : Bool) : (s.enterClosed b).WithinCapacity := by
  unfold State.enterClosed; dsimp only
  refine (State.tellEpoch_only _).withinCapacity ?_ (by decide)
  have h (e : Epoch) : (({ s with epoch := e } : State).applyPending).WithinCapacity :=
    (State.applyPending_only _).withinCapacity ((s.setEpoch_only e).withinCapacity hs (by decide)) (by decide)
  split
  · exact State.ownEvent_fits (h _) _ _ _
  · exact State.ownEvent_fits (State.ownEvent_fits (h _) _ _ _) _ _ _

theorem State.closeEpoch_fits {s : State} (hs : s.WithinCapacity) : s.closeEpoch.WithinCapacity := by
  have h (w : Writer) : (({ s with writer := w } : State).enterClosed false).WithinCapacity :=
    State.enterClosed_fits ((s.setWriter_only w).withinCapacity hs (by decide)) _
  unfold State.closeEpoch; dsimp only; split
  · exact State.rearm_fits (h _) _
  · exact h _

theorem State.closeStreams_fits {s : State} (hs : s.WithinCapacity) : s.closeStreams.WithinCapacity := by
  have h (e : Epoch) : (({ s with epoch := e } : State).closeAll).WithinCapacity :=
    State.closeAll_fits ((s.setEpoch_only e).withinCapacity hs (by decide))
  unfold State.closeStreams; split
  · exact hs
  · exact (State.setClosed_only _ _ _).withinCapacity (h _) (by decide)

theorem State.enterFlush_fits {s : State} (hs : s.WithinCapacity) (c : FlushCause) (g : Nat) :
    (s.enterFlush c g).WithinCapacity := by
  have h (e : Epoch) (d : List Byte) : ((({ s with epoch := e } : State).ownEvent .epoch 0x0202 d).tellEpoch).WithinCapacity :=
    (State.tellEpoch_only _).withinCapacity (State.ownEvent_fits ((s.setEpoch_only e).withinCapacity hs (by decide)) _ _ _) (by decide)
  unfold State.enterFlush; dsimp only; split
  · exact State.closeStreams_fits (h _ _)
  · exact (State.setEpoch_only _ _).withinCapacity (h _ _) (by decide)

theorem State.flushAtOnce_fits {s : State} (hs : s.WithinCapacity) (c : FlushCause) : (s.flushAtOnce c).WithinCapacity := by
  unfold State.flushAtOnce; split
  · exact State.enterFlush_fits hs _ _
  · exact State.closeStreams_fits hs
  · exact hs

theorem State.reportStoreFull_fits {s : State} (hs : s.WithinCapacity) : s.reportStoreFull.WithinCapacity := by
  unfold State.reportStoreFull; split
  · exact hs
  · split
    · exact State.flushAtOnce_fits ((s.setEpoch_only _).withinCapacity hs (by decide)) _
    · exact State.flushAtOnce_fits ((s.setEpoch_only _).withinCapacity hs (by decide)) _
    · exact hs

theorem State.openEpoch_fits {s : State} (hs : s.WithinCapacity) (c : OpenCause) : (s.openEpoch c).WithinCapacity := by
  have hf := History.freeze_fits (h := s.history) ⟨hs.2.1, hs.2.2.1⟩
  have h (e : Epoch) (b : Budget) (w : Writer) :
      ({ s with epoch := e, budget := b, history := s.history.freeze, writer := w } : State).WithinCapacity :=
    ⟨hs.1, hf.1, hf.2, hs.2.2.2⟩
  unfold State.openEpoch; dsimp only
  refine (State.tellEpoch_only _).withinCapacity (State.ownEvent_fits ?_ _ _ _) (by decide)
  have offered {t : State} (ht : t.WithinCapacity) (a b : QEntry) : ((t.offer a).offer b).WithinCapacity :=
    State.offer_fits (State.offer_fits ht a) b
  refine (State.setExamDue_only _ _).withinCapacity ?_ (by decide)
  refine offered ?_ _ _
  exact h _ _ _

theorem State.openRequest_fits {s : State} (hs : s.WithinCapacity) (c : OpenCause) : (s.openRequest c).WithinCapacity := by
  unfold State.openRequest; split
  · split
    · exact State.openEpoch_fits hs c
    · exact State.ownEvent_fits (State.post_fits hs _) _ _ _
  · exact State.ownEvent_fits hs _ _ _
  · exact State.ownEvent_fits hs _ _ _
  · exact State.ownEvent_fits hs _ _ _

theorem State.forceClose_fits {s : State} (hs : s.WithinCapacity) : s.forceClose.WithinCapacity := by
  have drop {t : State} (ht : t.WithinCapacity) (e : QEntry) : (t.dropFault e).WithinCapacity := by
    unfold State.dropFault; dsimp only
    exact State.post_fits ((State.returnBlocks_only _ _).withinCapacity ((t.setCommit_only _).withinCapacity ht
      (by decide)) (by decide)) _
  have all : ∀ (xs : List QEntry) {t : State}, t.WithinCapacity → (xs.foldl State.dropFault t).WithinCapacity := by
    intro xs
    induction xs with
    | nil => intro t ht; exact ht
    | cons x xs ih => intro t ht; exact ih (drop ht x)
  have h (e : Epoch) : (({ s with epoch := e } : State).closeStreams).WithinCapacity :=
    State.closeStreams_fits ((s.setEpoch_only e).withinCapacity hs (by decide))
  have closed {t : State} (ht : t.WithinCapacity) :
      ((t.queue.foldl State.dropFault { t with queue := [] }).enterClosed true).WithinCapacity :=
    State.enterClosed_fits (all _ (State.setQueue_fits ht (Nat.zero_le _))) _
  unfold State.forceClose; split
  case h_3 => exact hs
  all_goals exact closed (h _)

/-! ## The writer -/

theorem State.dropStoreFull_fits {s : State} (hs : s.WithinCapacity) (e : QEntry) : (s.dropStoreFull e).WithinCapacity := by
  have h (n : Nat) : ((((s.returnBlocks e.chain).postPlain .storeFull e.info.streamField n).countStoreFull).countLost
      e.info).WithinCapacity :=
    (State.countLost_only _ _).withinCapacity ((State.countStoreFull_only _).withinCapacity
      (State.post_fits ((s.returnBlocks_only _).withinCapacity hs (by decide)) _) (by decide)) (by decide)
  unfold State.dropStoreFull; dsimp only; split
  · exact (State.setWriter_only _ _).withinCapacity (h _) (by decide)
  · exact h _

theorem State.dropBudget_fits {s : State} (hs : s.WithinCapacity) (e : QEntry) : (s.dropBudget e).WithinCapacity :=
  (State.countLost_only _ _).withinCapacity ((State.countBudgetDrop_only _).withinCapacity
    (State.post_fits ((s.returnBlocks_only _).withinCapacity hs (by decide)) _) (by decide)) (by decide)

/-- A scan of a queue that fits leaves one that fits: what it kept and what it has not reached. -/
theorem scanQueue_fits : ∀ (q kept : List QEntry) {s : State}, s.WithinCapacity →
    kept.length + q.length ≤ queueCapacity → (scanQueue kept q s).2.WithinCapacity
  | [], kept, s, hs, h => State.setQueue_fits hs (by simpa using h)
  | e :: rest, kept, s, hs, h => by
    simp only [List.length_cons] at h
    unfold scanQueue; split
    · exact State.setQueue_fits hs (by simp only [List.length_append, List.length_cons]; omega)
    · exact scanQueue_fits rest kept (State.dropStoreFull_fits hs e) (by omega)
    · split
      · exact (State.beginRecord_only _ _ _).withinCapacity
          (State.setQueue_fits hs (by simp only [List.length_append]; omega)) (by decide)
      · have hr := s.countRefusal_only.withinCapacity hs (by decide)
        split
        · exact scanQueue_fits rest _ hr (by simp only [List.length_append, List.length_singleton]; omega)
        · exact scanQueue_fits rest _ (State.dropBudget_fits hr e) (by omega)

theorem State.nextClose_fits : ∀ (ks : List RecKind) {s : State}, s.WithinCapacity → (State.nextClose ks s).WithinCapacity
  | [], _, hs => State.closeEpoch_fits hs
  | k :: ks, s, hs => by
    unfold State.nextClose; dsimp only; split
    · exact (State.beginRecord_only _ _ _).withinCapacity ((s.setWriter_only _).withinCapacity hs (by decide)) (by decide)
    · exact State.nextClose_fits ks ((State.countStoreFull_only _).withinCapacity (State.post_fits hs _) (by decide))

theorem State.enterClosing_fits {s : State} (hs : s.WithinCapacity) : s.enterClosing.WithinCapacity := by
  have drop {t : State} (ht : t.WithinCapacity) (e : QEntry) : (t.dropAtClosing e).WithinCapacity := by
    unfold State.dropAtClosing; split
    · exact State.dropStoreFull_fits ht e
    · exact State.dropBudget_fits ht e
  have all : ∀ (xs : List QEntry) {t : State}, t.WithinCapacity → (xs.foldl State.dropAtClosing t).WithinCapacity := by
    intro xs
    induction xs with
    | nil => intro t ht; exact ht
    | cons x xs ih => intro t ht; exact ih (drop ht x)
  unfold State.enterClosing; dsimp only
  exact State.nextClose_fits _ (all _ ⟨Nat.zero_le _, hs.2⟩)

theorem State.setReported_only (s : State) (b : Budget) (p : PowerCounters) :
    Only [.budget, .powerCounters] s { s with budget := b, powerCounters := p } :=
  (s.setBudget_only b).next (State.setPowerCounters_only _ p) (by decide) (by decide)

theorem State.reportExhaustion_fits {s : State} (hs : s.WithinCapacity) : s.reportExhaustion.WithinCapacity := by
  unfold State.reportExhaustion; dsimp only; split
  · exact State.flushAtOnce_fits ((s.setReported_only _ _).withinCapacity hs (by decide)) _
  · exact hs

theorem State.examineOnce_fits {s : State} (hs : s.WithinCapacity) : s.examineOnce.WithinCapacity := by
  unfold State.examineOnce; dsimp only; split
  · exact hs
  · have h : (scanQueue [] s.queue { s with examDue := false }).2.WithinCapacity :=
      scanQueue_fits _ _ ((s.setExamDue_only false).withinCapacity hs (by decide)) (by simpa using hs.1)
    split
    · rename_i heq; rw [heq] at h; exact h
    · rename_i heq; rw [heq] at h; exact h
    · rename_i u heq; rw [heq] at h
      have h₂ : (if u.writer.openMarkDropped then u.reportStoreFull else u).WithinCapacity := by
        split
        · exact State.reportStoreFull_fits h
        · exact h
      have h₃ := State.reportExhaustion_fits h₂
      generalize State.reportExhaustion _ = v at h₃ ⊢
      split
      · exact State.enterClosing_fits h₃
      · exact h₃

theorem State.examine_fits {s : State} (hs : s.WithinCapacity) : s.examine.WithinCapacity := by
  have again {t : State} (ht : t.WithinCapacity) : (if t.examDue then t.examineOnce else t).WithinCapacity := by
    split
    · exact State.examineOnce_fits ht
    · exact ht
  unfold State.examine; dsimp only
  exact (State.setExamDue_only _ _).withinCapacity (again (again (again hs))) (by decide)

theorem State.finish_fits {s : State} (hs : s.WithinCapacity) : s.finish.WithinCapacity :=
  (State.settlePort_only _).withinCapacity (State.examine_fits hs) (by decide)

theorem State.checkStoreFull_fits {s : State} (hs : s.WithinCapacity) : s.checkStoreFull.WithinCapacity := by
  unfold State.checkStoreFull; split
  · exact State.reportStoreFull_fits hs
  · exact hs

theorem State.writerPageDone_fits {s : State} (hs : s.WithinCapacity) : s.writerPageDone.WithinCapacity := by
  unfold State.writerPageDone; split
  · exact hs
  · dsimp only
    refine (State.claimWriter_only _).withinCapacity (State.checkStoreFull_fits ?_) (by decide)
    split
    · exact (s.markDone_only _).withinCapacity hs (by decide)
    · exact (s.frameDone_only _).withinCapacity hs (by decide)

theorem State.writerGoesOn_fits {s : State} (hs : s.WithinCapacity) : s.writerGoesOn.WithinCapacity := by
  unfold State.writerGoesOn; split
  · exact hs
  · exact State.nextClose_fits _ hs
  · exact hs

/-! ## The flash port -/

theorem State.setRefused_only (s : State) (p : Port) (c : CommitCounters) :
    Only [.port, .commit] s { s with port := p, commit := c } :=
  (s.setPort_only p).next (State.setCommit_only _ c) (by decide) (by decide)

theorem State.flashFault_fits {s : State} (hs : s.WithinCapacity) (x : OpInFlight) (b : Bool) :
    (s.flashFault x b).WithinCapacity := by
  have refuse {t : State} (ht : t.WithinCapacity) : t.refuseWaiting.WithinCapacity := by
    unfold State.refuseWaiting; split
    · exact ht
    · split
      · exact ht
      · exact (State.endRefused_only _).withinCapacity ((t.setRefused_only _ _).withinCapacity ht (by decide)) (by decide)
  have h : (if s.port.fault then ({ s with port := { s.port with inFlight := none } }.interruptOp x.op).countFault
        else s.enterFault x b).WithinCapacity := by
    split
    · exact (State.setCommit_only _ _).withinCapacity ((State.interruptOp_only _ _).withinCapacity
        ((s.setPort_only _).withinCapacity hs (by decide)) (by decide)) (by decide)
    · unfold State.enterFault; dsimp only
      refine State.forceClose_fits ((State.writerFault_only _).withinCapacity (State.ownEvent_fits ?_ _ _ _) (by decide))
      refine (State.setCommit_only _ _).withinCapacity (State.post_fits ?_ _) (by decide)
      exact (State.interruptOp_only _ _).withinCapacity ((s.setPort_only _).withinCapacity hs (by decide)) (by decide)
  unfold State.flashFault; dsimp only
  refine refuse ?_
  split
  · exact (State.endRefused_only _).withinCapacity h (by decide)
  · exact h

end Sys2Proof.Machine
end

