-- ==== Sys2Proof/Laws/Memory.lean ====
section
/-! SUPPORT. Laws/Memory.lean: the laws of the byte memories: what a store, a clear and a load read, and that every operation
keeps the canonical form. -/

namespace Sys2Proof.Machine

/-! ## Reading -/

theorem Memory.read_append_right {d : Byte} {x : Nat} {m₂ : List Host.Cell} :
    ∀ {m₁ : List Host.Cell}, (∀ c ∈ m₁, c.1 ≠ x) → Memory.read d (m₁ ++ m₂) x = Memory.read d m₂ x
  | [], _ => rfl
  | c :: m₁, h => by
    rw [List.cons_append, Memory.read, if_neg (h c List.mem_cons_self)]
    exact Memory.read_append_right fun e he => h e (List.mem_cons_of_mem c he)

theorem Memory.read_none {d : Byte} {x : Nat} : ∀ {m : List Host.Cell}, (∀ c ∈ m, c.1 ≠ x) → Memory.read d m x = d
  | [], _ => rfl
  | c :: m, h => by
    rw [Memory.read, if_neg (h c List.mem_cons_self)]
    exact Memory.read_none fun e he => h e (List.mem_cons_of_mem c he)

theorem Memory.read_append_left {d : Byte} {x : Nat} {m₂ : List Host.Cell} (h : ∀ c ∈ m₂, c.1 ≠ x) :
    ∀ m₁ : List Host.Cell, Memory.read d (m₁ ++ m₂) x = Memory.read d m₁ x
  | [] => Memory.read_none h
  | c :: m₁ => by
    rw [List.cons_append, Memory.read, Memory.read, Memory.read_append_left h m₁]

/-- A filter by address keeps what it keeps and forgets the rest. -/
theorem Memory.read_filter {d : Byte} (keep : Nat → Bool) (x : Nat) : ∀ m : List Host.Cell,
    Memory.read d (m.filter fun c => keep c.1) x = if keep x then Memory.read d m x else d
  | [] => by simp [Memory.read]
  | c :: m => by
    have ih := Memory.read_filter keep x m (d := d)
    by_cases hc : keep c.1 = true
    · rw [List.filter_cons_of_pos (by simpa using hc), Memory.read, Memory.read, ih]
      by_cases hx : c.1 = x
      · subst hx; simp [hc]
      · simp [hx]
    · rw [List.filter_cons_of_neg (by simpa using hc), Memory.read, ih]
      by_cases hx : c.1 = x
      · subst hx; simp [hc]
      · simp [hx]

theorem Memory.cells_bounds {d : Byte} : ∀ (bs : List Byte) (a : Nat), ∀ c ∈ Memory.cells d a bs,
    a ≤ c.1 ∧ c.1 < a + bs.length
  | [], _, _, h => by cases h
  | b :: bs, a, c, h => by
    have tail : c ∈ Memory.cells d (a + 1) bs → a ≤ c.1 ∧ c.1 < a + (b :: bs).length := fun h' => by
      have := Memory.cells_bounds bs (a + 1) c h'
      simp only [List.length_cons]; omega
    unfold Memory.cells at h
    split at h
    · exact tail h
    · rcases List.mem_cons.mp h with rfl | h'
      · simp
      · exact tail h'

theorem Memory.read_cells {d : Byte} : ∀ (bs : List Byte) (a i : Nat), i < bs.length →
    Memory.read d (Memory.cells d a bs) (a + i) = bs.getD i d
  | [], _, _, h => by cases h
  | b :: bs, a, 0, _ => by
    have out : ∀ c ∈ Memory.cells d (a + 1) bs, c.1 ≠ a := fun c hc => by
      have := Memory.cells_bounds bs (a + 1) c hc; omega
    unfold Memory.cells
    split
    · rename_i hb; rw [Nat.add_zero]; exact (Memory.read_none out).trans (by simp [hb])
    · simp [Memory.read]
  | b :: bs, a, i + 1, h => by
    have ih := Memory.read_cells bs (a + 1) i (Nat.lt_of_succ_lt_succ h) (d := d)
    have e : a + (i + 1) = a + 1 + i := by omega
    unfold Memory.cells
    rw [e]
    split
    · simpa using ih
    · rw [Memory.read, if_neg (by simp only; omega)]; simpa using ih

/-- A store gives its bytes at their addresses and leaves every other address alone. -/
theorem Memory.read_store {d : Byte} (m : List Host.Cell) (a x : Nat) (bs : List Byte) :
    Memory.read d (Memory.store d m a bs) x =
      if a ≤ x ∧ x < a + bs.length then bs.getD (x - a) d else Memory.read d m x := by
  have low := Memory.read_filter (d := d) (fun y => decide (y < a)) x m
  have high := Memory.read_filter (d := d) (fun y => decide (a + bs.length ≤ y)) x m
  have lowKeys : ∀ c ∈ m.filter (fun c => decide (c.1 < a)), c.1 < a := fun c hc => by
    simpa using (List.mem_filter.mp hc).2
  have highKeys : ∀ c ∈ m.filter (fun c => decide (a + bs.length ≤ c.1)), a + bs.length ≤ c.1 := fun c hc => by
    simpa using (List.mem_filter.mp hc).2
  have mid := Memory.cells_bounds (d := d) bs a
  unfold Memory.store
  by_cases h₁ : x < a
  · rw [Memory.read_append_left (fun c hc => by have := highKeys c hc; omega),
      Memory.read_append_left (fun c hc => by have := mid c hc; omega), low, if_pos (by simpa using h₁),
      if_neg (by omega)]
  · rw [List.append_assoc, Memory.read_append_right (fun c hc => by have := lowKeys c hc; omega)]
    by_cases h₂ : x < a + bs.length
    · rw [Memory.read_append_left (fun c hc => by have := highKeys c hc; omega), if_pos ⟨by omega, h₂⟩]
      have := Memory.read_cells (d := d) bs a (x - a) (by omega)
      rwa [Nat.add_sub_cancel' (Nat.le_of_not_lt h₁)] at this
    · rw [Memory.read_append_right (fun c hc => by have := mid c hc; omega), high,
        if_pos (by simpa using Nat.le_of_not_lt h₂), if_neg (by omega)]

/-- A clear returns its addresses to the unlisted byte and leaves every other address alone. -/
theorem Memory.read_clear {d : Byte} (m : List Host.Cell) (a n x : Nat) :
    Memory.read d (Memory.clear m a n) x = if a ≤ x ∧ x < a + n then d else Memory.read d m x := by
  unfold Memory.clear
  rw [Memory.read_filter (fun y => decide (y < a) || decide (a + n ≤ y)) x m]
  by_cases h : a ≤ x ∧ x < a + n
  · rw [if_neg (by simp; omega), if_pos h]
  · rw [if_pos (by simp; omega), if_neg h]

/-- A load reads byte by byte. -/
theorem Memory.load_eq {d : Byte} (m : List Host.Cell) (a n : Nat) :
    Memory.load d m a n = (List.range n).map fun i => Memory.read d m (a + i) := by
  unfold Memory.load
  apply List.map_congr_left
  intro i hi
  have hi' : i < n := List.mem_range.mp hi
  rw [Memory.read_filter (fun y => decide (a ≤ y) && decide (y < a + n)) (a + i) m, if_pos (by simp; omega)]

/-! ## The canonical form -/

theorem Memory.wfFrom_lower {d : Byte} {low high : Nat} (h : low ≤ high) :
    ∀ {m : List Host.Cell}, Memory.wfFrom d high m = true → Memory.wfFrom d low m = true
  | [], _ => rfl
  | c :: m, hw => by
    simp only [Memory.wfFrom, Bool.and_eq_true, decide_eq_true_eq] at hw ⊢
    exact ⟨⟨Nat.le_trans h hw.1.1, hw.1.2⟩, hw.2⟩

/-- A filter keeps the canonical form. -/
theorem Memory.wfFrom_filter {d : Byte} (p : Host.Cell → Bool) : ∀ {m : List Host.Cell} {low : Nat},
    Memory.wfFrom d low m = true → Memory.wfFrom d low (m.filter p) = true
  | [], _, _ => rfl
  | c :: m, low, hw => by
    simp only [Memory.wfFrom, Bool.and_eq_true, decide_eq_true_eq] at hw
    have ih := Memory.wfFrom_filter p hw.2
    by_cases hp : p c = true
    · rw [List.filter_cons_of_pos hp]
      simp only [Memory.wfFrom, Bool.and_eq_true, decide_eq_true_eq]
      exact ⟨hw.1, ih⟩
    · rw [List.filter_cons_of_neg hp]
      exact Memory.wfFrom_lower (Nat.le_trans hw.1.1 (Nat.le_succ _)) ih

theorem Memory.wfFrom_append {d : Byte} {mid : Nat} {m₂ : List Host.Cell} (h₂ : Memory.wfFrom d mid m₂ = true) :
    ∀ {m₁ : List Host.Cell} {low : Nat}, low ≤ mid → Memory.wfFrom d low m₁ = true → (∀ c ∈ m₁, c.1 < mid) →
      Memory.wfFrom d low (m₁ ++ m₂) = true
  | [], _, hl, _, _ => Memory.wfFrom_lower hl h₂
  | c :: m₁, low, hl, h₁, hm => by
    simp only [List.cons_append, Memory.wfFrom, Bool.and_eq_true, decide_eq_true_eq] at h₁ ⊢
    exact ⟨h₁.1, Memory.wfFrom_append h₂ (hm c List.mem_cons_self) h₁.2
      fun e he => hm e (List.mem_cons_of_mem c he)⟩

theorem Memory.wfFrom_above {d : Byte} (a : Nat) : ∀ {m : List Host.Cell} {low : Nat}, Memory.wfFrom d low m = true →
    Memory.wfFrom d a (m.filter fun c => decide (a ≤ c.1)) = true
  | [], _, _ => rfl
  | c :: m, low, hw => by
    simp only [Memory.wfFrom, Bool.and_eq_true, decide_eq_true_eq] at hw
    by_cases hc : a ≤ c.1
    · rw [List.filter_cons_of_pos (by simpa using hc)]
      simp only [Memory.wfFrom, Bool.and_eq_true, decide_eq_true_eq]
      exact ⟨⟨hc, hw.1.2⟩, Memory.wfFrom_filter _ hw.2⟩
    · rw [List.filter_cons_of_neg (by simpa using hc)]
      exact Memory.wfFrom_above a hw.2

theorem Memory.wfFrom_cells {d : Byte} : ∀ (bs : List Byte) (a : Nat), Memory.wfFrom d a (Memory.cells d a bs) = true
  | [], _ => rfl
  | b :: bs, a => by
    have ih := Memory.wfFrom_cells (d := d) bs (a + 1)
    unfold Memory.cells
    split
    · exact Memory.wfFrom_lower (Nat.le_succ a) ih
    · rename_i hb
      simp only [Memory.wfFrom, Bool.and_eq_true, decide_eq_true_eq]
      exact ⟨⟨Nat.le_refl a, hb⟩, ih⟩

/-- A store keeps the canonical form: a byte equal to the unlisted one is not listed. -/
theorem Memory.wf_store {d : Byte} {m : List Host.Cell} (a : Nat) (bs : List Byte) (h : Memory.wf d m = true) :
    Memory.wf d (Memory.store d m a bs) = true := by
  unfold Memory.wf Memory.store
  have low : Memory.wfFrom d 0 (m.filter fun c => decide (c.1 < a)) = true := Memory.wfFrom_filter _ h
  have lowKeys : ∀ c ∈ m.filter (fun c => decide (c.1 < a)), c.1 < a := fun c hc => by
    simpa using (List.mem_filter.mp hc).2
  refine Memory.wfFrom_append (Memory.wfFrom_above (a + bs.length) h) (Nat.zero_le _)
    (Memory.wfFrom_append (Memory.wfFrom_cells bs a) (Nat.zero_le _) low lowKeys) ?_
  intro c hc
  rcases List.mem_append.mp hc with hc | hc
  · have := lowKeys c hc; omega
  · exact (Memory.cells_bounds bs a c hc).2

/-- A clear keeps the canonical form. -/
theorem Memory.wf_clear {d : Byte} {m : List Host.Cell} (a n : Nat) (h : Memory.wf d m = true) :
    Memory.wf d (Memory.clear m a n) = true := Memory.wfFrom_filter _ h

/-- What reset's memories list is nothing, which is in canonical form. -/
theorem Memory.wf_nil (d : Byte) : Memory.wf d [] = true := rfl

theorem State.reset_flash_wf : Memory.wf flashBlank State.reset.flash = true := rfl

theorem State.reset_pool_wf : Memory.wf poolBlank State.reset.pool = true := rfl

/-! ## The part's two memories -/

theorem State.flashByte_programPage (s : State) (p : Nat) (bs : List Byte) (x : Nat) :
    (s.programPage p bs).flashByte x =
      if p * 256 ≤ x ∧ x < p * 256 + bs.length then bs.getD (x - p * 256) flashBlank else s.flashByte x :=
  Memory.read_store _ _ _ _

theorem State.flashByte_eraseSector (s : State) (n x : Nat) :
    (s.eraseSector n).flashByte x = if n * 65536 ≤ x ∧ x < n * 65536 + 65536 then flashBlank else s.flashByte x :=
  Memory.read_clear _ _ _ _

theorem State.programPage_keeps_wf (s : State) (p : Nat) (bs : List Byte) (h : Memory.wf flashBlank s.flash = true) :
    Memory.wf flashBlank (s.programPage p bs).flash = true := Memory.wf_store _ _ h

theorem State.eraseSector_keeps_wf (s : State) (n : Nat) (h : Memory.wf flashBlank s.flash = true) :
    Memory.wf flashBlank (s.eraseSector n).flash = true := Memory.wf_clear _ _ h

theorem State.interruptOp_keeps_wf (s : State) (op : FlashOp) (h : Memory.wf flashBlank s.flash = true) :
    Memory.wf flashBlank (s.interruptOp op).flash = true := by
  unfold State.interruptOp; split
  · exact h
  · exact Memory.wfFrom_filter _ h
  · exact Memory.wf_store _ _ h

theorem State.appendStore_keeps_wf (s : State) (i : Nat) (bs : List Byte) (h : Memory.wf poolBlank s.pool = true) :
    Memory.wf poolBlank (s.appendStore i bs).pool = true := by
  unfold State.appendStore; dsimp only
  split
  · show Memory.wf poolBlank (if bs = [] then s.pool else _) = true
    split
    · exact h
    · exact Memory.wf_store _ _ h
  · show Memory.wf poolBlank (Memory.store poolBlank (if _ then s.pool else _) _ _) = true
    refine Memory.wf_store _ _ ?_
    split
    · exact h
    · exact Memory.wf_store _ _ h

/-- A part of the flash that an interrupted operation does not touch reads as before. -/
theorem State.flashByte_interruptOp (s : State) (op : FlashOp) (x : Nat)
    (h₁ : x / 65536 ≠ op.page / 256 ∨ op.kind ≠ .erase)
    (h₂ : ¬ (op.page * 256 ≤ x ∧ x < op.page * 256 + op.data.length) ∨ op.kind = .erase) :
    (s.interruptOp op).flashByte x = s.flashByte x := by
  have len : ∀ (k a : Nat) (n o : List Byte), (interruptedBytes k a n o).length ≤ n.length := by
    intro k a n
    induction n generalizing a with
    | nil => intro o; simp [interruptedBytes]
    | cons b n ih =>
      intro o
      cases o with
      | nil => simp [interruptedBytes]
      | cons c o => simpa [interruptedBytes] using ih (a + 1) o
  unfold State.interruptOp
  split
  · rfl
  · rename_i hk
    have hx : x / 65536 ≠ op.page / 256 := h₁.resolve_right (not_not_intro hk)
    show Memory.read flashBlank (List.filter _ s.flash) x = Memory.read flashBlank s.flash x
    rw [Memory.read_filter (fun y => decide (y / 65536 ≠ op.page / 256) || !Config.interruptedByteTaken s.freeIndex y) x]
    simp [hx]
  · rename_i hk
    have hx := h₂.resolve_right (by assumption)
    show Memory.read flashBlank (Memory.store _ _ _ _) x = Memory.read flashBlank s.flash x
    rw [Memory.read_store, if_neg]
    intro hin
    have := len s.freeIndex (op.page * 256) op.data
      (Memory.load flashBlank s.flash (op.page * 256) op.data.length)
    exact hx ⟨hin.1, by omega⟩

end Sys2Proof.Machine
end

