-- ==== Sys2Proof/Laws/Port.lean ====
section
/-! SUPPORT. Laws/Port.lean: what settling the flash port comes to: background erase's claim and the arbiter's grant as functions of
the port alone (R14, R83, R84), that settling twice is settling once, and that a change which calls for no examination only settles. -/

namespace Sys2Proof.Machine

/-- The port with the arbiter's grant (R84). -/
def Port.granted (p : Port) (held : Bool) (power : PowerState) : Port :=
  let grant (op : FlashOp) (who : Claimant) : Option OpInFlight := some ⟨op, who, op.kind.limit⟩
  if p.inFlight.isSome || held then p
  else match power, p.waitWriter, p.waitService, p.waitErase with
    | .main, some w, some v, _ =>
      if p.lastService then { p with inFlight := grant w .writer, waitWriter := none, lastService := false }
      else { p with inFlight := grant v .service, waitService := none, lastService := true }
    | .main, some w, none, _ => { p with inFlight := grant w .writer, waitWriter := none, lastService := false }
    | .main, none, some v, _ => { p with inFlight := grant v .service, waitService := none, lastService := true }
    | .main, none, none, some e => { p with inFlight := grant e .background, waitErase := none }
    | .main, none, none, none => p
    | .holdup, some w, _, _ => { p with inFlight := grant w .writer, waitWriter := none, lastService := false }
    | .holdup, none, _, _ => p

/-- The port with background erase's claim brought up to date (R14). -/
def Port.claimed (p : Port) (blocked : Bool) (candidate : Option FlashOp) : Port :=
  { p with waitErase := if blocked || p.fault || p.erasing then none else candidate }

/-- A grant changes the port alone. -/
theorem State.grant_eq (s : State) : s.grant = { s with port := s.port.granted s.recovering s.monitor.power } := by
  unfold State.grant State.grantMain Port.granted
  cases s.monitor.power <;> cases hw : s.port.waitWriter <;> cases hv : s.port.waitService <;>
    cases he : s.port.waitErase <;> simp only [State.grantWriter, State.grantService, State.grantErase] <;>
    (try split) <;> (try split) <;> first | rfl | simp only [hw, hv, he]

/-- Settling changes the port alone, and there it is the erase claim and then the grant. -/
theorem State.settlePort_eq (s : State) : s.settlePort = { s with
    port := (s.port.claimed (s.formatting || s.recovering) (s.eraseCandidate.map fun n => ⟨.erase, n * 256, []⟩)).granted
      s.recovering s.monitor.power } := State.grant_eq s.updateErase

/-- A port settled twice is the port settled once. -/
theorem Port.settled_idem (p : Port) (b : Bool) (c : Option FlashOp) (h : Bool) (w : PowerState) :
    (((p.claimed b c).granted h w).claimed b c).granted h w = (p.claimed b c).granted h w := by
  obtain ⟨x, ww, ws, we, f, l, r⟩ := p
  cases x <;> cases h <;> cases w <;> cases ww <;> cases ws <;> cases b <;> cases f <;> cases c <;> cases l <;>
    simp [Port.claimed, Port.granted, Port.erasing]

/-- Settling twice is settling once. -/
theorem State.settlePort_idem (s : State) : s.settlePort.settlePort = s.settlePort := by
  rw [State.settlePort_eq, State.settlePort_eq]
  exact congrArg (fun p => ({ s with port := p } : State)) (Port.settled_idem _ _ _ _ _)

/-- With no examination due, a change closes with settling the port. -/
theorem State.finish_quiet {s : State} (h : s.examDue = false) : s.finish = s.settlePort := by
  have e : s.examine = s := by unfold State.examine; simp [h]; rw [← h]
  rw [State.finish, e]

/-- Granting the writer's or the service link's waiting claim before settling comes to settling. -/
theorem Port.waiting_settled (p : Port) (b : Bool) (c : Option FlashOp) (h : Bool) (w : PowerState) :
    (((({ p with waitErase := none } : Port).granted h w).claimed b c).granted h w) = (p.claimed b c).granted h w := by
  obtain ⟨x, ww, ws, we, f, l, r⟩ := p
  cases x <;> cases h <;> cases w <;> cases ww <;> cases ws <;> cases b <;> cases f <;> cases c <;> cases l <;>
    simp [Port.claimed, Port.granted, Port.erasing]

/-- The end of an erase settles the port when no examination is due (R84). -/
theorem State.grantWaiting_finish {s : State} (h : s.examDue = false) : s.grantWaiting.finish = s.settlePort := by
  have e : s.grantWaiting = { s with
      port := (({ s.port with waitErase := none } : Port)).granted s.recovering s.monitor.power } :=
    State.grant_eq { s with port := { s.port with waitErase := none } }
  rw [State.finish_quiet (by rw [e]; exact h), e, State.settlePort_eq, State.settlePort_eq]
  exact congrArg (fun p => ({ s with port := p } : State)) (Port.waiting_settled _ _ _ _ _)

/-- Settling keeps whether an examination is due. -/
@[simp] theorem State.settlePort_examDue (s : State) : s.settlePort.examDue = s.examDue := by rw [State.settlePort_eq]

/-- With no examination due, settling before the close of a change adds nothing. -/
theorem State.settlePort_finish {s : State} (h : s.examDue = false) : s.settlePort.finish = s.settlePort := by
  rw [State.finish_quiet (by simp [h]), State.settlePort_idem]

end Sys2Proof.Machine
end

