-- ==== Sys2Proof/Laws/Server.lean ====
section
/-! SUPPORT. Laws/Server.lean: how a request that meets a free link is served: what arrive, serve and serverReply come to. -/

namespace Sys2Proof.Machine

/-- A request that arrives at a free link is queued and served at once (10_the_service_link.md, The request queue and the server). -/
theorem State.arrive_free {s : State} (h : s.LinkFree) (req : Request) (tag : Byte) :
    s.arrive req tag = (s.received req tag).serve ⟨req, tag, s.tick, s.wrap⟩ := by
  obtain ⟨hq, hf⟩ := h
  simp [State.arrive, hq, requestCapacity, State.serveAll, State.serveNext, hf, State.received]

/-- A reply changes the link alone, and there it is the reply to the received request. -/
theorem State.serverReply_eq (s u : State) (req : Request) (tag : Byte) (hu : u.link = (s.received req tag).link)
    (st : Status) (b : List Byte) :
    u.serverReply st b = { u with link := ((s.received req tag).replied req.kind tag st b false).link } := by
  simp [State.serverReply, State.replyWith, hu, State.received, State.handReply, State.replied]

/-- A request whose service only answers leaves the state answered. -/
theorem State.received_serverReply (s : State) (req : Request) (tag : Byte) (st : Status) (b : List Byte) :
    (s.received req tag).serverReply st b = s.answered req req.kind tag st b := by
  rw [State.serverReply_eq s (s.received req tag) req tag rfl]; rfl

/-- A known, well-sized request that the common tests let pass goes to its own service. -/
theorem State.arrive_own {s : State} (h : s.Serves) (req : Request) (tag : Byte)
    (hr : (∀ k, req ≠ .unknown k) ∧ (∀ k, req ≠ .malformed k))
    (hp : s.monitor.power = .main ∨ req.refusedInHoldup = false) :
    s.arrive req tag = (s.received req tag).serveOwn ⟨req, tag, s.tick, s.wrap⟩ := by
  rw [State.arrive_free h.1]
  have : (s.received req tag).commonTest req = none := by
    have h2 : (s.received req tag).recovering = false := h.2
    have h3 : (s.received req tag).monitor.power = s.monitor.power := rfl
    cases req <;> simp_all [State.commonTest]
    all_goals (intro hh; simp_all)
  simp [State.serve, this]

/-- A request of a known kind with a body of the wrong size is answered BAD-ARGUMENT. -/
theorem State.arrive_malformed {s : State} (h : s.Serves) (k : Nat) (tag : Byte) :
    s.arrive (.malformed k) tag = s.answered (.malformed k) k tag .badArgument [] := by
  rw [State.arrive_free h.1]
  have h2 : (s.received (.malformed k) tag).recovering = false := h.2
  have : (s.received (.malformed k) tag).commonTest (.malformed k) = some .badArgument := by
    unfold State.commonTest; split <;> simp_all
  simp only [State.serve, this]
  exact State.received_serverReply s _ _ _ _

/-- History entries from a number on: from the entry that bears it, if one does. -/
theorem entriesFrom_eq (q : Nat) : ∀ l : List (HEntry × Nat), entriesFrom q l =
    if l.any (fun e => decide (e.1.seq = q)) then some (l.dropWhile fun e => decide (e.1.seq ≠ q)) else none
  | [] => rfl
  | e :: es => by
    unfold entriesFrom
    by_cases h : e.1.seq = q
    · simp [h]
    · rw [if_neg h, entriesFrom_eq q es, List.any_cons, decide_eq_false h, Bool.false_or, List.dropWhile_cons]
      simp [h]

end Sys2Proof.Machine
end

