-- ==== Sys2Proof/Laws/State.lean ====
section
/-! SUPPORT. Laws/State.lean: the fields of the state after each named update (one conjunct per field, each a simp rule true by
rfl), and what the tables read after an entry has been set. -/

namespace Sys2Proof.Machine

@[simp] theorem State.setLane_fields (s : State) (l : LaneNo) (v : Lane) :
    (s.setLane l v).pending = s.pending ∧ (s.setLane l v).freeIndex = s.freeIndex
      ∧ (s.setLane l v).examDue = s.examDue ∧ (s.setLane l v).strapFirst = s.strapFirst
      ∧ (s.setLane l v).strapSecond = s.strapSecond ∧ (s.setLane l v).lastReset = s.lastReset
      ∧ (s.setLane l v).recovering = s.recovering ∧ (s.setLane l v).tick = s.tick ∧ (s.setLane l v).wrap = s.wrap
      ∧ (s.setLane l v).anchor = s.anchor ∧ (s.setLane l v).imageSeq = s.imageSeq
      ∧ (s.setLane l v).lanes = s.lanes.set l.val v ∧ (s.setLane l v).heldOrder = s.heldOrder
      ∧ (s.setLane l v).domains = s.domains ∧ (s.setLane l v).primary = s.primary
      ∧ (s.setLane l v).streams = s.streams ∧ (s.setLane l v).aging = s.aging ∧ (s.setLane l v).cursor = s.cursor
      ∧ (s.setLane l v).sweepTimer = s.sweepTimer ∧ (s.setLane l v).pool = s.pool
      ∧ (s.setLane l v).freeList = s.freeList ∧ (s.setLane l v).poolReserve = s.poolReserve
      ∧ (s.setLane l v).reassembly = s.reassembly ∧ (s.setLane l v).queue = s.queue
      ∧ (s.setLane l v).writer = s.writer ∧ (s.setLane l v).commit = s.commit ∧ (s.setLane l v).port = s.port
      ∧ (s.setLane l v).flash = s.flash ∧ (s.setLane l v).store = s.store ∧ (s.setLane l v).directory = s.directory
      ∧ (s.setLane l v).monitor = s.monitor ∧ (s.setLane l v).budget = s.budget
      ∧ (s.setLane l v).powerCounters = s.powerCounters ∧ (s.setLane l v).epoch = s.epoch
      ∧ (s.setLane l v).lines = s.lines ∧ (s.setLane l v).history = s.history
      ∧ (s.setLane l v).anomalies = s.anomalies ∧ (s.setLane l v).link = s.link := by
  repeat' constructor

@[simp] theorem State.setLine_fields (s : State) (l : LineNo) (v : TriggerLine) :
    (s.setLine l v).pending = s.pending ∧ (s.setLine l v).freeIndex = s.freeIndex
      ∧ (s.setLine l v).examDue = s.examDue ∧ (s.setLine l v).strapFirst = s.strapFirst
      ∧ (s.setLine l v).strapSecond = s.strapSecond ∧ (s.setLine l v).lastReset = s.lastReset
      ∧ (s.setLine l v).recovering = s.recovering ∧ (s.setLine l v).tick = s.tick ∧ (s.setLine l v).wrap = s.wrap
      ∧ (s.setLine l v).anchor = s.anchor ∧ (s.setLine l v).imageSeq = s.imageSeq ∧ (s.setLine l v).lanes = s.lanes
      ∧ (s.setLine l v).heldOrder = s.heldOrder ∧ (s.setLine l v).domains = s.domains
      ∧ (s.setLine l v).primary = s.primary ∧ (s.setLine l v).streams = s.streams ∧ (s.setLine l v).aging = s.aging
      ∧ (s.setLine l v).cursor = s.cursor ∧ (s.setLine l v).sweepTimer = s.sweepTimer ∧ (s.setLine l v).pool = s.pool
      ∧ (s.setLine l v).freeList = s.freeList ∧ (s.setLine l v).poolReserve = s.poolReserve
      ∧ (s.setLine l v).reassembly = s.reassembly ∧ (s.setLine l v).queue = s.queue
      ∧ (s.setLine l v).writer = s.writer ∧ (s.setLine l v).commit = s.commit ∧ (s.setLine l v).port = s.port
      ∧ (s.setLine l v).flash = s.flash ∧ (s.setLine l v).store = s.store ∧ (s.setLine l v).directory = s.directory
      ∧ (s.setLine l v).monitor = s.monitor ∧ (s.setLine l v).budget = s.budget
      ∧ (s.setLine l v).powerCounters = s.powerCounters ∧ (s.setLine l v).epoch = s.epoch
      ∧ (s.setLine l v).lines = s.lines.set l.val v ∧ (s.setLine l v).history = s.history
      ∧ (s.setLine l v).anomalies = s.anomalies ∧ (s.setLine l v).link = s.link := by
  repeat' constructor

@[simp] theorem State.setStream_fields (s : State) (i : Nat) (v : Stream) :
    (s.setStream i v).pending = s.pending ∧ (s.setStream i v).freeIndex = s.freeIndex
      ∧ (s.setStream i v).examDue = s.examDue ∧ (s.setStream i v).strapFirst = s.strapFirst
      ∧ (s.setStream i v).strapSecond = s.strapSecond ∧ (s.setStream i v).lastReset = s.lastReset
      ∧ (s.setStream i v).recovering = s.recovering ∧ (s.setStream i v).tick = s.tick
      ∧ (s.setStream i v).wrap = s.wrap ∧ (s.setStream i v).anchor = s.anchor
      ∧ (s.setStream i v).imageSeq = s.imageSeq ∧ (s.setStream i v).lanes = s.lanes
      ∧ (s.setStream i v).heldOrder = s.heldOrder ∧ (s.setStream i v).domains = s.domains
      ∧ (s.setStream i v).primary = s.primary ∧ (s.setStream i v).streams = s.streams.set i v
      ∧ (s.setStream i v).aging = s.aging ∧ (s.setStream i v).cursor = s.cursor
      ∧ (s.setStream i v).sweepTimer = s.sweepTimer ∧ (s.setStream i v).pool = s.pool
      ∧ (s.setStream i v).freeList = s.freeList ∧ (s.setStream i v).poolReserve = s.poolReserve
      ∧ (s.setStream i v).reassembly = s.reassembly ∧ (s.setStream i v).queue = s.queue
      ∧ (s.setStream i v).writer = s.writer ∧ (s.setStream i v).commit = s.commit ∧ (s.setStream i v).port = s.port
      ∧ (s.setStream i v).flash = s.flash ∧ (s.setStream i v).store = s.store
      ∧ (s.setStream i v).directory = s.directory ∧ (s.setStream i v).monitor = s.monitor
      ∧ (s.setStream i v).budget = s.budget ∧ (s.setStream i v).powerCounters = s.powerCounters
      ∧ (s.setStream i v).epoch = s.epoch ∧ (s.setStream i v).lines = s.lines ∧ (s.setStream i v).history = s.history
      ∧ (s.setStream i v).anomalies = s.anomalies ∧ (s.setStream i v).link = s.link := by
  repeat' constructor

@[simp] theorem State.setDir_fields (s : State) (i : Nat) (v : DirEntry) :
    (s.setDir i v).pending = s.pending ∧ (s.setDir i v).freeIndex = s.freeIndex ∧ (s.setDir i v).examDue = s.examDue
      ∧ (s.setDir i v).strapFirst = s.strapFirst ∧ (s.setDir i v).strapSecond = s.strapSecond
      ∧ (s.setDir i v).lastReset = s.lastReset ∧ (s.setDir i v).recovering = s.recovering
      ∧ (s.setDir i v).tick = s.tick ∧ (s.setDir i v).wrap = s.wrap ∧ (s.setDir i v).anchor = s.anchor
      ∧ (s.setDir i v).imageSeq = s.imageSeq ∧ (s.setDir i v).lanes = s.lanes ∧ (s.setDir i v).heldOrder = s.heldOrder
      ∧ (s.setDir i v).domains = s.domains ∧ (s.setDir i v).primary = s.primary ∧ (s.setDir i v).streams = s.streams
      ∧ (s.setDir i v).aging = s.aging ∧ (s.setDir i v).cursor = s.cursor ∧ (s.setDir i v).sweepTimer = s.sweepTimer
      ∧ (s.setDir i v).pool = s.pool ∧ (s.setDir i v).freeList = s.freeList
      ∧ (s.setDir i v).poolReserve = s.poolReserve ∧ (s.setDir i v).reassembly = s.reassembly
      ∧ (s.setDir i v).queue = s.queue ∧ (s.setDir i v).writer = s.writer ∧ (s.setDir i v).commit = s.commit
      ∧ (s.setDir i v).port = s.port ∧ (s.setDir i v).flash = s.flash ∧ (s.setDir i v).store = s.store
      ∧ (s.setDir i v).directory = s.directory.set i v ∧ (s.setDir i v).monitor = s.monitor
      ∧ (s.setDir i v).budget = s.budget ∧ (s.setDir i v).powerCounters = s.powerCounters
      ∧ (s.setDir i v).epoch = s.epoch ∧ (s.setDir i v).lines = s.lines ∧ (s.setDir i v).history = s.history
      ∧ (s.setDir i v).anomalies = s.anomalies ∧ (s.setDir i v).link = s.link := by
  repeat' constructor

@[simp] theorem State.handReply_fields (s : State) (r : Reply) :
    (s.handReply r).pending = s.pending ∧ (s.handReply r).freeIndex = s.freeIndex
      ∧ (s.handReply r).examDue = s.examDue ∧ (s.handReply r).strapFirst = s.strapFirst
      ∧ (s.handReply r).strapSecond = s.strapSecond ∧ (s.handReply r).lastReset = s.lastReset
      ∧ (s.handReply r).recovering = s.recovering ∧ (s.handReply r).tick = s.tick ∧ (s.handReply r).wrap = s.wrap
      ∧ (s.handReply r).anchor = s.anchor ∧ (s.handReply r).imageSeq = s.imageSeq ∧ (s.handReply r).lanes = s.lanes
      ∧ (s.handReply r).heldOrder = s.heldOrder ∧ (s.handReply r).domains = s.domains
      ∧ (s.handReply r).primary = s.primary ∧ (s.handReply r).streams = s.streams ∧ (s.handReply r).aging = s.aging
      ∧ (s.handReply r).cursor = s.cursor ∧ (s.handReply r).sweepTimer = s.sweepTimer ∧ (s.handReply r).pool = s.pool
      ∧ (s.handReply r).freeList = s.freeList ∧ (s.handReply r).poolReserve = s.poolReserve
      ∧ (s.handReply r).reassembly = s.reassembly ∧ (s.handReply r).queue = s.queue
      ∧ (s.handReply r).writer = s.writer ∧ (s.handReply r).commit = s.commit ∧ (s.handReply r).port = s.port
      ∧ (s.handReply r).flash = s.flash ∧ (s.handReply r).store = s.store ∧ (s.handReply r).directory = s.directory
      ∧ (s.handReply r).monitor = s.monitor ∧ (s.handReply r).budget = s.budget
      ∧ (s.handReply r).powerCounters = s.powerCounters ∧ (s.handReply r).epoch = s.epoch
      ∧ (s.handReply r).lines = s.lines ∧ (s.handReply r).history = s.history
      ∧ (s.handReply r).anomalies = s.anomalies ∧ (s.handReply r).link = { s.link with tx := s.link.tx ++ [r] } := by
  repeat' constructor

@[simp] theorem State.placeEvent_fields (s : State) (n : Nat) (o : Origin) (c : Nat) (d : List Byte) :
    (s.placeEvent n o c d).pending = s.pending ∧ (s.placeEvent n o c d).freeIndex = s.freeIndex
      ∧ (s.placeEvent n o c d).examDue = s.examDue ∧ (s.placeEvent n o c d).strapFirst = s.strapFirst
      ∧ (s.placeEvent n o c d).strapSecond = s.strapSecond ∧ (s.placeEvent n o c d).lastReset = s.lastReset
      ∧ (s.placeEvent n o c d).recovering = s.recovering ∧ (s.placeEvent n o c d).tick = s.tick
      ∧ (s.placeEvent n o c d).wrap = s.wrap ∧ (s.placeEvent n o c d).anchor = s.anchor
      ∧ (s.placeEvent n o c d).imageSeq = s.imageSeq ∧ (s.placeEvent n o c d).lanes = s.lanes
      ∧ (s.placeEvent n o c d).heldOrder = s.heldOrder ∧ (s.placeEvent n o c d).domains = s.domains
      ∧ (s.placeEvent n o c d).primary = s.primary ∧ (s.placeEvent n o c d).streams = s.streams
      ∧ (s.placeEvent n o c d).aging = s.aging ∧ (s.placeEvent n o c d).cursor = s.cursor
      ∧ (s.placeEvent n o c d).sweepTimer = s.sweepTimer ∧ (s.placeEvent n o c d).pool = s.pool
      ∧ (s.placeEvent n o c d).freeList = s.freeList ∧ (s.placeEvent n o c d).poolReserve = s.poolReserve
      ∧ (s.placeEvent n o c d).reassembly = s.reassembly ∧ (s.placeEvent n o c d).queue = s.queue
      ∧ (s.placeEvent n o c d).writer = s.writer ∧ (s.placeEvent n o c d).commit = s.commit
      ∧ (s.placeEvent n o c d).port = s.port ∧ (s.placeEvent n o c d).flash = s.flash
      ∧ (s.placeEvent n o c d).store = s.store ∧ (s.placeEvent n o c d).directory = s.directory
      ∧ (s.placeEvent n o c d).monitor = s.monitor ∧ (s.placeEvent n o c d).budget = s.budget
      ∧ (s.placeEvent n o c d).powerCounters = s.powerCounters ∧ (s.placeEvent n o c d).epoch = s.epoch
      ∧ (s.placeEvent n o c d).lines = s.lines ∧ (s.placeEvent n o c d).history = s.history.place n o c d
      ∧ (s.placeEvent n o c d).anomalies = s.anomalies ∧ (s.placeEvent n o c d).link = s.link := by
  repeat' constructor

@[simp] theorem State.ownEvent_fields (s : State) (b : Block) (c : Nat) (d : List Byte) :
    (s.ownEvent b c d).pending = s.pending ∧ (s.ownEvent b c d).freeIndex = s.freeIndex
      ∧ (s.ownEvent b c d).examDue = s.examDue ∧ (s.ownEvent b c d).strapFirst = s.strapFirst
      ∧ (s.ownEvent b c d).strapSecond = s.strapSecond ∧ (s.ownEvent b c d).lastReset = s.lastReset
      ∧ (s.ownEvent b c d).recovering = s.recovering ∧ (s.ownEvent b c d).tick = s.tick
      ∧ (s.ownEvent b c d).wrap = s.wrap ∧ (s.ownEvent b c d).anchor = s.anchor
      ∧ (s.ownEvent b c d).imageSeq = s.imageSeq ∧ (s.ownEvent b c d).lanes = s.lanes
      ∧ (s.ownEvent b c d).heldOrder = s.heldOrder ∧ (s.ownEvent b c d).domains = s.domains
      ∧ (s.ownEvent b c d).primary = s.primary ∧ (s.ownEvent b c d).streams = s.streams
      ∧ (s.ownEvent b c d).aging = s.aging ∧ (s.ownEvent b c d).cursor = s.cursor
      ∧ (s.ownEvent b c d).sweepTimer = s.sweepTimer ∧ (s.ownEvent b c d).pool = s.pool
      ∧ (s.ownEvent b c d).freeList = s.freeList ∧ (s.ownEvent b c d).poolReserve = s.poolReserve
      ∧ (s.ownEvent b c d).reassembly = s.reassembly ∧ (s.ownEvent b c d).queue = s.queue
      ∧ (s.ownEvent b c d).writer = s.writer ∧ (s.ownEvent b c d).commit = s.commit ∧ (s.ownEvent b c d).port = s.port
      ∧ (s.ownEvent b c d).flash = s.flash ∧ (s.ownEvent b c d).store = s.store
      ∧ (s.ownEvent b c d).directory = s.directory ∧ (s.ownEvent b c d).monitor = s.monitor
      ∧ (s.ownEvent b c d).budget = s.budget ∧ (s.ownEvent b c d).powerCounters = s.powerCounters
      ∧ (s.ownEvent b c d).epoch = s.epoch ∧ (s.ownEvent b c d).lines = s.lines
      ∧ (s.ownEvent b c d).history = s.history.place s.tick (.part b) c d ∧ (s.ownEvent b c d).anomalies = s.anomalies
      ∧ (s.ownEvent b c d).link = s.link := by
  repeat' constructor

@[simp] theorem State.returnBlocks_fields (s : State) (b : List Nat) :
    (s.returnBlocks b).pending = s.pending ∧ (s.returnBlocks b).freeIndex = s.freeIndex
      ∧ (s.returnBlocks b).examDue = s.examDue ∧ (s.returnBlocks b).strapFirst = s.strapFirst
      ∧ (s.returnBlocks b).strapSecond = s.strapSecond ∧ (s.returnBlocks b).lastReset = s.lastReset
      ∧ (s.returnBlocks b).recovering = s.recovering ∧ (s.returnBlocks b).tick = s.tick
      ∧ (s.returnBlocks b).wrap = s.wrap ∧ (s.returnBlocks b).anchor = s.anchor
      ∧ (s.returnBlocks b).imageSeq = s.imageSeq ∧ (s.returnBlocks b).lanes = s.lanes
      ∧ (s.returnBlocks b).heldOrder = s.heldOrder ∧ (s.returnBlocks b).domains = s.domains
      ∧ (s.returnBlocks b).primary = s.primary ∧ (s.returnBlocks b).streams = s.streams
      ∧ (s.returnBlocks b).aging = s.aging ∧ (s.returnBlocks b).cursor = s.cursor
      ∧ (s.returnBlocks b).sweepTimer = s.sweepTimer ∧ (s.returnBlocks b).pool = s.pool
      ∧ (s.returnBlocks b).freeList = s.freeList ++ b ∧ (s.returnBlocks b).poolReserve = s.poolReserve
      ∧ (s.returnBlocks b).reassembly = s.reassembly ∧ (s.returnBlocks b).queue = s.queue
      ∧ (s.returnBlocks b).writer = s.writer ∧ (s.returnBlocks b).commit = s.commit ∧ (s.returnBlocks b).port = s.port
      ∧ (s.returnBlocks b).flash = s.flash ∧ (s.returnBlocks b).store = s.store
      ∧ (s.returnBlocks b).directory = s.directory ∧ (s.returnBlocks b).monitor = s.monitor
      ∧ (s.returnBlocks b).budget = s.budget ∧ (s.returnBlocks b).powerCounters = s.powerCounters
      ∧ (s.returnBlocks b).epoch = s.epoch ∧ (s.returnBlocks b).lines = s.lines
      ∧ (s.returnBlocks b).history = s.history ∧ (s.returnBlocks b).anomalies = s.anomalies
      ∧ (s.returnBlocks b).link = s.link := by
  repeat' constructor

@[simp] theorem State.programPage_fields (s : State) (p : Nat) (b : List Byte) :
    (s.programPage p b).pending = s.pending ∧ (s.programPage p b).freeIndex = s.freeIndex
      ∧ (s.programPage p b).examDue = s.examDue ∧ (s.programPage p b).strapFirst = s.strapFirst
      ∧ (s.programPage p b).strapSecond = s.strapSecond ∧ (s.programPage p b).lastReset = s.lastReset
      ∧ (s.programPage p b).recovering = s.recovering ∧ (s.programPage p b).tick = s.tick
      ∧ (s.programPage p b).wrap = s.wrap ∧ (s.programPage p b).anchor = s.anchor
      ∧ (s.programPage p b).imageSeq = s.imageSeq ∧ (s.programPage p b).lanes = s.lanes
      ∧ (s.programPage p b).heldOrder = s.heldOrder ∧ (s.programPage p b).domains = s.domains
      ∧ (s.programPage p b).primary = s.primary ∧ (s.programPage p b).streams = s.streams
      ∧ (s.programPage p b).aging = s.aging ∧ (s.programPage p b).cursor = s.cursor
      ∧ (s.programPage p b).sweepTimer = s.sweepTimer ∧ (s.programPage p b).pool = s.pool
      ∧ (s.programPage p b).freeList = s.freeList ∧ (s.programPage p b).poolReserve = s.poolReserve
      ∧ (s.programPage p b).reassembly = s.reassembly ∧ (s.programPage p b).queue = s.queue
      ∧ (s.programPage p b).writer = s.writer ∧ (s.programPage p b).commit = s.commit
      ∧ (s.programPage p b).port = s.port ∧ (s.programPage p b).flash = Memory.store flashBlank s.flash (p * 256) b
      ∧ (s.programPage p b).store = s.store ∧ (s.programPage p b).directory = s.directory
      ∧ (s.programPage p b).monitor = s.monitor ∧ (s.programPage p b).budget = s.budget
      ∧ (s.programPage p b).powerCounters = s.powerCounters ∧ (s.programPage p b).epoch = s.epoch
      ∧ (s.programPage p b).lines = s.lines ∧ (s.programPage p b).history = s.history
      ∧ (s.programPage p b).anomalies = s.anomalies ∧ (s.programPage p b).link = s.link := by
  repeat' constructor

@[simp] theorem State.eraseSector_fields (s : State) (n : Nat) :
    (s.eraseSector n).pending = s.pending ∧ (s.eraseSector n).freeIndex = s.freeIndex
      ∧ (s.eraseSector n).examDue = s.examDue ∧ (s.eraseSector n).strapFirst = s.strapFirst
      ∧ (s.eraseSector n).strapSecond = s.strapSecond ∧ (s.eraseSector n).lastReset = s.lastReset
      ∧ (s.eraseSector n).recovering = s.recovering ∧ (s.eraseSector n).tick = s.tick
      ∧ (s.eraseSector n).wrap = s.wrap ∧ (s.eraseSector n).anchor = s.anchor
      ∧ (s.eraseSector n).imageSeq = s.imageSeq ∧ (s.eraseSector n).lanes = s.lanes
      ∧ (s.eraseSector n).heldOrder = s.heldOrder ∧ (s.eraseSector n).domains = s.domains
      ∧ (s.eraseSector n).primary = s.primary ∧ (s.eraseSector n).streams = s.streams
      ∧ (s.eraseSector n).aging = s.aging ∧ (s.eraseSector n).cursor = s.cursor
      ∧ (s.eraseSector n).sweepTimer = s.sweepTimer ∧ (s.eraseSector n).pool = s.pool
      ∧ (s.eraseSector n).freeList = s.freeList ∧ (s.eraseSector n).poolReserve = s.poolReserve
      ∧ (s.eraseSector n).reassembly = s.reassembly ∧ (s.eraseSector n).queue = s.queue
      ∧ (s.eraseSector n).writer = s.writer ∧ (s.eraseSector n).commit = s.commit ∧ (s.eraseSector n).port = s.port
      ∧ (s.eraseSector n).flash = Memory.clear s.flash (n * 65536) 65536 ∧ (s.eraseSector n).store = s.store
      ∧ (s.eraseSector n).directory = s.directory ∧ (s.eraseSector n).monitor = s.monitor
      ∧ (s.eraseSector n).budget = s.budget ∧ (s.eraseSector n).powerCounters = s.powerCounters
      ∧ (s.eraseSector n).epoch = s.epoch ∧ (s.eraseSector n).lines = s.lines ∧ (s.eraseSector n).history = s.history
      ∧ (s.eraseSector n).anomalies = s.anomalies ∧ (s.eraseSector n).link = s.link := by
  repeat' constructor

@[simp] theorem State.evalLow_fields (s : State)  :
    (s.evalLow).pending = s.pending ∧ (s.evalLow).freeIndex = s.freeIndex ∧ (s.evalLow).examDue = s.examDue
      ∧ (s.evalLow).strapFirst = s.strapFirst ∧ (s.evalLow).strapSecond = s.strapSecond
      ∧ (s.evalLow).lastReset = s.lastReset ∧ (s.evalLow).recovering = s.recovering ∧ (s.evalLow).tick = s.tick
      ∧ (s.evalLow).wrap = s.wrap ∧ (s.evalLow).anchor = s.anchor ∧ (s.evalLow).imageSeq = s.imageSeq
      ∧ (s.evalLow).lanes = s.lanes ∧ (s.evalLow).heldOrder = s.heldOrder ∧ (s.evalLow).domains = s.domains
      ∧ (s.evalLow).primary = s.primary ∧ (s.evalLow).streams = s.streams ∧ (s.evalLow).aging = s.aging
      ∧ (s.evalLow).cursor = s.cursor ∧ (s.evalLow).sweepTimer = s.sweepTimer ∧ (s.evalLow).pool = s.pool
      ∧ (s.evalLow).freeList = s.freeList ∧ (s.evalLow).poolReserve = s.poolReserve
      ∧ (s.evalLow).reassembly = s.reassembly ∧ (s.evalLow).queue = s.queue ∧ (s.evalLow).writer = s.writer
      ∧ (s.evalLow).commit = s.commit ∧ (s.evalLow).port = s.port ∧ (s.evalLow).flash = s.flash
      ∧ (s.evalLow).store = { s.store with low := s.lowNow } ∧ (s.evalLow).directory = s.directory
      ∧ (s.evalLow).monitor = s.monitor ∧ (s.evalLow).budget = s.budget ∧ (s.evalLow).powerCounters = s.powerCounters
      ∧ (s.evalLow).epoch = s.epoch ∧ (s.evalLow).lines = s.lines ∧ (s.evalLow).history = s.history
      ∧ (s.evalLow).anomalies = s.anomalies ∧ (s.evalLow).link = s.link := by
  repeat' constructor

@[simp] theorem State.mapReassembly_fields (s : State) (f : ReassemblyCounters → ReassemblyCounters) :
    (s.mapReassembly f).pending = s.pending ∧ (s.mapReassembly f).freeIndex = s.freeIndex
      ∧ (s.mapReassembly f).examDue = s.examDue ∧ (s.mapReassembly f).strapFirst = s.strapFirst
      ∧ (s.mapReassembly f).strapSecond = s.strapSecond ∧ (s.mapReassembly f).lastReset = s.lastReset
      ∧ (s.mapReassembly f).recovering = s.recovering ∧ (s.mapReassembly f).tick = s.tick
      ∧ (s.mapReassembly f).wrap = s.wrap ∧ (s.mapReassembly f).anchor = s.anchor
      ∧ (s.mapReassembly f).imageSeq = s.imageSeq ∧ (s.mapReassembly f).lanes = s.lanes
      ∧ (s.mapReassembly f).heldOrder = s.heldOrder ∧ (s.mapReassembly f).domains = s.domains
      ∧ (s.mapReassembly f).primary = s.primary ∧ (s.mapReassembly f).streams = s.streams
      ∧ (s.mapReassembly f).aging = s.aging ∧ (s.mapReassembly f).cursor = s.cursor
      ∧ (s.mapReassembly f).sweepTimer = s.sweepTimer ∧ (s.mapReassembly f).pool = s.pool
      ∧ (s.mapReassembly f).freeList = s.freeList ∧ (s.mapReassembly f).poolReserve = s.poolReserve
      ∧ (s.mapReassembly f).reassembly = f s.reassembly ∧ (s.mapReassembly f).queue = s.queue
      ∧ (s.mapReassembly f).writer = s.writer ∧ (s.mapReassembly f).commit = s.commit
      ∧ (s.mapReassembly f).port = s.port ∧ (s.mapReassembly f).flash = s.flash ∧ (s.mapReassembly f).store = s.store
      ∧ (s.mapReassembly f).directory = s.directory ∧ (s.mapReassembly f).monitor = s.monitor
      ∧ (s.mapReassembly f).budget = s.budget ∧ (s.mapReassembly f).powerCounters = s.powerCounters
      ∧ (s.mapReassembly f).epoch = s.epoch ∧ (s.mapReassembly f).lines = s.lines
      ∧ (s.mapReassembly f).history = s.history ∧ (s.mapReassembly f).anomalies = s.anomalies
      ∧ (s.mapReassembly f).link = s.link := by
  repeat' constructor

@[simp] theorem State.commitPages_fields (s : State) (n : Nat) :
    (s.commitPages n).pending = s.pending ∧ (s.commitPages n).freeIndex = s.freeIndex
      ∧ (s.commitPages n).examDue = s.examDue ∧ (s.commitPages n).strapFirst = s.strapFirst
      ∧ (s.commitPages n).strapSecond = s.strapSecond ∧ (s.commitPages n).lastReset = s.lastReset
      ∧ (s.commitPages n).recovering = s.recovering ∧ (s.commitPages n).tick = s.tick
      ∧ (s.commitPages n).wrap = s.wrap ∧ (s.commitPages n).anchor = s.anchor
      ∧ (s.commitPages n).imageSeq = s.imageSeq ∧ (s.commitPages n).lanes = s.lanes
      ∧ (s.commitPages n).heldOrder = s.heldOrder ∧ (s.commitPages n).domains = s.domains
      ∧ (s.commitPages n).primary = s.primary ∧ (s.commitPages n).streams = s.streams
      ∧ (s.commitPages n).aging = s.aging ∧ (s.commitPages n).cursor = s.cursor
      ∧ (s.commitPages n).sweepTimer = s.sweepTimer ∧ (s.commitPages n).pool = s.pool
      ∧ (s.commitPages n).freeList = s.freeList ∧ (s.commitPages n).poolReserve = s.poolReserve
      ∧ (s.commitPages n).reassembly = s.reassembly ∧ (s.commitPages n).queue = s.queue
      ∧ (s.commitPages n).writer = s.writer ∧ (s.commitPages n).commit = s.commit ∧ (s.commitPages n).port = s.port
      ∧ (s.commitPages n).flash = s.flash ∧ (s.commitPages n).store = s.store
      ∧ (s.commitPages n).directory = s.directory ∧ (s.commitPages n).monitor = s.monitor
      ∧ (s.commitPages n).budget = { s.budget with outstanding := s.budget.outstanding + n }
      ∧ (s.commitPages n).powerCounters = s.powerCounters ∧ (s.commitPages n).epoch = s.epoch
      ∧ (s.commitPages n).lines = s.lines ∧ (s.commitPages n).history = s.history
      ∧ (s.commitPages n).anomalies = s.anomalies ∧ (s.commitPages n).link = s.link := by
  repeat' constructor

@[simp] theorem State.uncommitPages_fields (s : State) (n : Nat) :
    (s.uncommitPages n).pending = s.pending ∧ (s.uncommitPages n).freeIndex = s.freeIndex
      ∧ (s.uncommitPages n).examDue = s.examDue ∧ (s.uncommitPages n).strapFirst = s.strapFirst
      ∧ (s.uncommitPages n).strapSecond = s.strapSecond ∧ (s.uncommitPages n).lastReset = s.lastReset
      ∧ (s.uncommitPages n).recovering = s.recovering ∧ (s.uncommitPages n).tick = s.tick
      ∧ (s.uncommitPages n).wrap = s.wrap ∧ (s.uncommitPages n).anchor = s.anchor
      ∧ (s.uncommitPages n).imageSeq = s.imageSeq ∧ (s.uncommitPages n).lanes = s.lanes
      ∧ (s.uncommitPages n).heldOrder = s.heldOrder ∧ (s.uncommitPages n).domains = s.domains
      ∧ (s.uncommitPages n).primary = s.primary ∧ (s.uncommitPages n).streams = s.streams
      ∧ (s.uncommitPages n).aging = s.aging ∧ (s.uncommitPages n).cursor = s.cursor
      ∧ (s.uncommitPages n).sweepTimer = s.sweepTimer ∧ (s.uncommitPages n).pool = s.pool
      ∧ (s.uncommitPages n).freeList = s.freeList ∧ (s.uncommitPages n).poolReserve = s.poolReserve
      ∧ (s.uncommitPages n).reassembly = s.reassembly ∧ (s.uncommitPages n).queue = s.queue
      ∧ (s.uncommitPages n).writer = s.writer ∧ (s.uncommitPages n).commit = s.commit
      ∧ (s.uncommitPages n).port = s.port ∧ (s.uncommitPages n).flash = s.flash ∧ (s.uncommitPages n).store = s.store
      ∧ (s.uncommitPages n).directory = s.directory ∧ (s.uncommitPages n).monitor = s.monitor
      ∧ (s.uncommitPages n).budget = { s.budget with outstanding := s.budget.outstanding - n }
      ∧ (s.uncommitPages n).powerCounters = s.powerCounters ∧ (s.uncommitPages n).epoch = s.epoch
      ∧ (s.uncommitPages n).lines = s.lines ∧ (s.uncommitPages n).history = s.history
      ∧ (s.uncommitPages n).anomalies = s.anomalies ∧ (s.uncommitPages n).link = s.link := by
  repeat' constructor

@[simp] theorem State.enterQueue_fields (s : State) (e : QEntry) :
    (s.enterQueue e).pending = s.pending ∧ (s.enterQueue e).freeIndex = s.freeIndex ∧ (s.enterQueue e).examDue = true
      ∧ (s.enterQueue e).strapFirst = s.strapFirst ∧ (s.enterQueue e).strapSecond = s.strapSecond
      ∧ (s.enterQueue e).lastReset = s.lastReset ∧ (s.enterQueue e).recovering = s.recovering
      ∧ (s.enterQueue e).tick = s.tick ∧ (s.enterQueue e).wrap = s.wrap ∧ (s.enterQueue e).anchor = s.anchor
      ∧ (s.enterQueue e).imageSeq = s.imageSeq ∧ (s.enterQueue e).lanes = s.lanes
      ∧ (s.enterQueue e).heldOrder = s.heldOrder ∧ (s.enterQueue e).domains = s.domains
      ∧ (s.enterQueue e).primary = s.primary ∧ (s.enterQueue e).streams = s.streams ∧ (s.enterQueue e).aging = s.aging
      ∧ (s.enterQueue e).cursor = s.cursor ∧ (s.enterQueue e).sweepTimer = s.sweepTimer
      ∧ (s.enterQueue e).pool = s.pool ∧ (s.enterQueue e).freeList = s.freeList
      ∧ (s.enterQueue e).poolReserve = s.poolReserve ∧ (s.enterQueue e).reassembly = s.reassembly
      ∧ (s.enterQueue e).queue = insertEntry e s.queue ∧ (s.enterQueue e).writer = s.writer
      ∧ (s.enterQueue e).commit = s.commit ∧ (s.enterQueue e).port = s.port ∧ (s.enterQueue e).flash = s.flash
      ∧ (s.enterQueue e).store = s.store ∧ (s.enterQueue e).directory = s.directory
      ∧ (s.enterQueue e).monitor = s.monitor ∧ (s.enterQueue e).budget = s.budget
      ∧ (s.enterQueue e).powerCounters = s.powerCounters ∧ (s.enterQueue e).epoch = s.epoch
      ∧ (s.enterQueue e).lines = s.lines ∧ (s.enterQueue e).history = s.history
      ∧ (s.enterQueue e).anomalies = s.anomalies ∧ (s.enterQueue e).link = s.link := by
  repeat' constructor

@[simp] theorem State.claimService_fields (s : State) (j : Job) (op : FlashOp) :
    (s.claimService j op).pending = s.pending ∧ (s.claimService j op).freeIndex = s.freeIndex
      ∧ (s.claimService j op).examDue = s.examDue ∧ (s.claimService j op).strapFirst = s.strapFirst
      ∧ (s.claimService j op).strapSecond = s.strapSecond ∧ (s.claimService j op).lastReset = s.lastReset
      ∧ (s.claimService j op).recovering = s.recovering ∧ (s.claimService j op).tick = s.tick
      ∧ (s.claimService j op).wrap = s.wrap ∧ (s.claimService j op).anchor = s.anchor
      ∧ (s.claimService j op).imageSeq = s.imageSeq ∧ (s.claimService j op).lanes = s.lanes
      ∧ (s.claimService j op).heldOrder = s.heldOrder ∧ (s.claimService j op).domains = s.domains
      ∧ (s.claimService j op).primary = s.primary ∧ (s.claimService j op).streams = s.streams
      ∧ (s.claimService j op).aging = s.aging ∧ (s.claimService j op).cursor = s.cursor
      ∧ (s.claimService j op).sweepTimer = s.sweepTimer ∧ (s.claimService j op).pool = s.pool
      ∧ (s.claimService j op).freeList = s.freeList ∧ (s.claimService j op).poolReserve = s.poolReserve
      ∧ (s.claimService j op).reassembly = s.reassembly ∧ (s.claimService j op).queue = s.queue
      ∧ (s.claimService j op).writer = s.writer ∧ (s.claimService j op).commit = s.commit
      ∧ (s.claimService j op).port = { s.port with waitService := some op } ∧ (s.claimService j op).flash = s.flash
      ∧ (s.claimService j op).store = s.store ∧ (s.claimService j op).directory = s.directory
      ∧ (s.claimService j op).monitor = s.monitor ∧ (s.claimService j op).budget = s.budget
      ∧ (s.claimService j op).powerCounters = s.powerCounters ∧ (s.claimService j op).epoch = s.epoch
      ∧ (s.claimService j op).lines = s.lines ∧ (s.claimService j op).history = s.history
      ∧ (s.claimService j op).anomalies = s.anomalies
      ∧ (s.claimService j op).link = { s.link with server := .working j false } := by
  repeat' constructor

/-! ## Tables -/

theorem Table.list_length {α : Type} {n : Nat} (t : Table α n) : t.list.length = n := t.size

@[simp] theorem Table.getD_set {α : Type} {n : Nat} (t : Table α n) (i j : Nat) (a d : α) :
    (t.set i a).getD j d = if i = j ∧ j < n then a else t.getD j d := by
  unfold Table.getD Table.set
  simp only [List.getD_eq_getElem?_getD, List.getElem?_set, t.size]
  by_cases hij : i = j
  · subst hij
    by_cases hi : i < n
    · simp [hi]
    · have : t.list[i]? = none := by rw [List.getElem?_eq_none_iff, t.size]; omega
      simp [hi, this]
  · simp [hij]

@[simp] theorem Table.get_set {α : Type} {n : Nat} (t : Table α n) (i j : Fin n) (a : α) :
    (t.set i.val a).get j = if i = j then a else t.get j := by
  unfold Table.get Table.set
  simp only [List.getElem_set, Fin.ext_iff]

@[simp] theorem State.lane_setLane (s : State) (l m : LaneNo) (v : Lane) :
    (s.setLane l v).lane m = if l = m then v else s.lane m := Table.get_set _ _ _ _

@[simp] theorem State.line_setLine (s : State) (l m : LineNo) (v : TriggerLine) :
    (s.setLine l v).line m = if l = m then v else s.line m := Table.get_set _ _ _ _

@[simp] theorem State.stream_setStream (s : State) (i j : Nat) (v : Stream) :
    (s.setStream i v).stream j = if i = j ∧ j < 512 then v else s.stream j := Table.getD_set _ _ _ _ _

@[simp] theorem State.dir_setDir (s : State) (i j : Nat) (v : DirEntry) :
    (s.setDir i v).dir j = if i = j ∧ j < 512 then v else s.dir j := Table.getD_set _ _ _ _ _

/-- A record whose state passes a test is present exactly when the list of records present holds one (log 47). -/
theorem State.recordPresent_iff (s : State) (test : RecState → Bool) :
    s.recordPresent test = true ↔ ∃ r ∈ s.store.records, test (s.recordState r) = true := by
  simp [State.recordPresent]

/-- What `oldestAfter` answers: a record present that comes later and is VALID or TORN (R16). -/
theorem State.oldestAfter_some {s : State} {seq q p : Nat} (h : s.oldestAfter seq = some (q, p)) :
    ∃ r ∈ s.store.records, r.seq = q ∧ r.page = p ∧ seq < q ∧ (s.recordState r).unreleased = true := by
  obtain ⟨r, hr, he⟩ := Option.map_eq_some_iff.mp h
  have hp := List.find?_some hr
  simp only [Prod.mk.injEq] at he
  obtain ⟨rfl, rfl⟩ := he
  simp only [Bool.and_eq_true, decide_eq_true_eq] at hp
  exact ⟨r, List.mem_of_find?_eq_some hr, rfl, rfl, hp.1, hp.2⟩

/-- What `keptBefore` answers: a record present that comes earlier and is VALID or RELEASED (R17). -/
theorem State.keptBefore_some {s : State} {seq : Nat} {r : LogRecord} (h : s.keptBefore seq = some r) :
    r ∈ s.store.records ∧ r.seq < seq ∧ (s.recordState r).kept = true := by
  have hm := List.mem_of_getLast? h
  simpa using hm

/-- After a sector's erase no record present begins in it (R14, R18). -/
theorem State.mem_dropRecords (s : State) (n : Nat) (r : LogRecord) :
    r ∈ (s.dropRecords n).store.records ↔ r ∈ s.store.records ∧ r.page / 256 ≠ n := by
  simp [State.dropRecords]

end Sys2Proof.Machine
end

