-- ==== Sys2Proof/Tests/Slice0.lean ====
section
/-! SUPPORT. Tests/Slice0.lean: the model's own tests. The smoke test of WellFormed, the worked examples of the manual, small
steps with results read from its rules, and, for each statement with hypotheses, a state and operands that meet them
(theorems test_meets_…). -/

namespace Sys2Proof.Tests

open Sys2Proof Sys2Proof.Machine

set_option Elab.async false

/-! ## States for the tests -/

/-- The part after recovery would have ended, in CLOSED, with the pointers as reset leaves them. -/
def idle : State := { State.reset with recovering := false }

/-- WATCH, with the store of a blank log. -/
def watch : State := { idle with
  epoch := { idle.epoch with state := .watch }
  store := { idle.store with low := false, erasedRun := 130816 } }

/-- CAPTURE of epoch 1, with both timers about to expire. -/
def capture : State := { watch with
  epoch := { watch.epoch with state := .capture, number := 1, openCause := .service, windowTimer := some 1, quietTimer := some 1 } }

/-- FLUSH with the grace running. -/
def flushing : State := { watch with
  epoch := { watch.epoch with state := .flush, number := 1, openCause := .service, flushCause := .service, graceTimer := some 5 } }

/-- HOLDUP in WATCH. -/
def holdup : State := { watch with monitor := { watch.monitor with power := .holdup } }

/-- A lane with the default settings. -/
def laneOf (rx : LaneRx) (slot0 slot1 : Slot) (select : Bool) (bits : List Bool) : Lane :=
  ⟨LaneSettings.default, rx, false, bits, slot0, slot1, select, LaneCounters.zero⟩

/-- The same lane in ASYNC. -/
def asyncOf (rx : LaneRx) (slot0 : Slot) (escape : Bool) : Lane :=
  ⟨⟨.async, 417, true, false⟩, rx, escape, [], slot0, .empty, false, LaneCounters.zero⟩

def onLane (l : Lane) : State := watch.setLane 3 l

/-- A line of a mode, with a filter code and a prescale. -/
def lineOf (mode : TriggerMode) (code prescale count : Nat) (run : Option (Bool × Nat)) : TriggerLine :=
  ⟨⟨false, code, prescale, mode⟩, true, true, run, count, 0, 0⟩

def onLine (s : State) (l : TriggerLine) : State := s.setLine 2 l

/-- A state with this operation in flight. -/
def flying (s : State) (op : FlashOp) (claimant : Claimant) : State :=
  { s with port := { s.port with inFlight := some ⟨op, claimant, op.kind.limit⟩ } }

/-- A stream in a state with a record in progress. -/
def onStream (s : State) (state : StreamState) (r : InProgress) : State :=
  s.setStream 9 { s.stream 9 with state := state, record := r }

def recordOf (expected bytes : Nat) (chain : List Nat) : InProgress :=
  ⟨2, expected, chain, bytes, expected, false, 0, 5, 3, 0, ⟨1, 1⟩⟩

def fragOf (kind : FragKind) (number : Nat) (payload : List Byte) (opens : Bool) : RecFragment :=
  ⟨⟨kind, 2, ⟨1, 1⟩, number, payload⟩, 3, 7, 9, opens⟩

/-- Whether an outcome is a next state that passes a test. -/
def nextIs (o : Host.Outcome State Fault Refusal) (test : State → Bool) : Bool :=
  match o with
  | .next t => test t
  | _ => false

/-- Whether an outcome is the fault of a page past the device. -/
def faults (o : Host.Outcome State Fault Refusal) : Bool :=
  match o with
  | .fault _ => true
  | _ => false

/-! ## WellFormed: each check refuses an ill-formed term -/

theorem test_wf_unknown_kind : Instr.wellFormed (.unknownKindRequest 0 256) = false ∧
    Instr.wellFormed (.unknownKindRequest 0 1) = false ∧ Instr.wellFormed (.unknownKindRequest 0 22) = false ∧
    Instr.wellFormed (.unknownKindRequest 0 0) = true ∧ Instr.wellFormed (.unknownKindRequest 0 23) = true := by decide

theorem test_wf_configure_lane : Instr.wellFormed (.configureLane 0 65536 0 16 false false) = false ∧
    Instr.wellFormed (.configureLane 0 0 256 16 false false) = false ∧
    Instr.wellFormed (.configureLane 0 0 0 65536 false false) = false := by decide

theorem test_wf_configure_trigger : Instr.wellFormed (.configureTrigger 0 65536 0 0 1 0) = false ∧
    Instr.wellFormed (.configureTrigger 0 0 256 0 1 0) = false ∧ Instr.wellFormed (.configureTrigger 0 0 0 256 1 0) = false ∧
    Instr.wellFormed (.configureTrigger 0 0 0 0 256 0) = false ∧ Instr.wellFormed (.configureTrigger 0 0 0 0 1 256) = false := by
  decide

theorem test_wf_configure_domain : Instr.wellFormed (.configureDomain 0 65536 true true 0 0) = false ∧
    Instr.wellFormed (.configureDomain 0 0 true true 65536 0) = false ∧
    Instr.wellFormed (.configureDomain 0 0 true true 0 256) = false := by decide

theorem test_wf_configure_primary : Instr.wellFormed (.configurePrimary 0 true true 256 0) = false ∧
    Instr.wellFormed (.configurePrimary 0 true true 0 256) = false := by decide

theorem test_wf_configure_streams : Instr.wellFormed (.configureStreams 0 65536 1 0 0) = false ∧
    Instr.wellFormed (.configureStreams 0 0 65536 0 0) = false ∧ Instr.wellFormed (.configureStreams 0 0 1 256 0) = false ∧
    Instr.wellFormed (.configureStreams 0 0 1 0 256) = false := by decide

theorem test_wf_configure_aging : Instr.wellFormed (.configureAging 0 65536 0 0 1) = false ∧
    Instr.wellFormed (.configureAging 0 0 65536 0 1) = false ∧ Instr.wellFormed (.configureAging 0 0 0 256 1) = false ∧
    Instr.wellFormed (.configureAging 0 0 0 0 256) = false ∧ Instr.wellFormed (.configurePool 0 65536) = false := by decide

theorem test_wf_configure_budget : Instr.wellFormed (.configureBudget 0 65536 1 0 0 1 0) = false ∧
    Instr.wellFormed (.configureBudget 0 1000 65536 0 0 1 0) = false ∧
    Instr.wellFormed (.configureBudget 0 1000 1 65536 0 1 0) = false ∧
    Instr.wellFormed (.configureBudget 0 1000 1 0 4294967296 1 0) = false ∧
    Instr.wellFormed (.configureBudget 0 1000 1 0 0 65536 0) = false ∧
    Instr.wellFormed (.configureBudget 0 1000 1 0 0 1 256) = false := by decide

theorem test_wf_configure_adc : Instr.wellFormed (.configureAdc 0 256 1 2 1) = false ∧
    Instr.wellFormed (.configureAdc 0 1 65536 2 1) = false ∧ Instr.wellFormed (.configureAdc 0 1 1 65536 1) = false ∧
    Instr.wellFormed (.configureAdc 0 1 1 2 256) = false := by decide

theorem test_wf_configure_epoch : Instr.wellFormed (.configureEpoch 0 65536 0 0 0 0 1 8) = false ∧
    Instr.wellFormed (.configureEpoch 0 0 256 0 0 0 1 8) = false ∧ Instr.wellFormed (.configureEpoch 0 0 0 256 0 0 1 8) = false ∧
    Instr.wellFormed (.configureEpoch 0 0 0 0 256 0 1 8) = false ∧ Instr.wellFormed (.configureEpoch 0 0 0 0 0 256 1 8) = false ∧
    Instr.wellFormed (.configureEpoch 0 0 0 0 0 0 256 8) = false ∧
    Instr.wellFormed (.configureEpoch 0 0 0 0 0 0 1 65536) = false := by decide

theorem test_wf_read_config : Instr.wellFormed (.readConfigLane 0 65536) = false ∧
    Instr.wellFormed (.readConfigTrigger 0 65536) = false ∧ Instr.wellFormed (.readConfigDomain 0 65536) = false ∧
    Instr.wellFormed (.readConfigStreams 0 65536 1) = false ∧ Instr.wellFormed (.readConfigStreams 0 0 65536) = false := by
  decide

theorem test_wf_time_and_log : Instr.wellFormed (.setTimeSet 0 18446744073709551616 0) = false ∧
    Instr.wellFormed (.setTimeSet 0 0 4294967296) = false ∧ Instr.wellFormed (.log 0 65536 []) = false ∧
    Instr.wellFormed (.log 0 0 (List.replicate 256 0)) = false := by decide +kernel

theorem test_wf_epoch_requests : Instr.wellFormed (.flush 0 256) = false ∧ Instr.wellFormed (.restart 0 256) = false ∧
    Instr.wellFormed (.wait 0 256 0 0) = false ∧ Instr.wellFormed (.wait 0 1 4294967296 0) = false ∧
    Instr.wellFormed (.wait 0 1 0 65536) = false := by decide

theorem test_wf_store_requests : Instr.wellFormed (.listRecords 0 4294967296 1) = false ∧
    Instr.wellFormed (.listRecords 0 0 256) = false ∧ Instr.wellFormed (.readRecord 0 4294967296 0 1) = false ∧
    Instr.wellFormed (.readRecord 0 0 4294967296 1) = false ∧ Instr.wellFormed (.readRecord 0 0 0 65536) = false ∧
    Instr.wellFormed (.verify 0 4294967296) = false ∧ Instr.wellFormed (.release 0 4294967296 0) = false ∧
    Instr.wellFormed (.release 0 0 4294967296) = false := by decide

theorem test_wf_report_requests : Instr.wellFormed (.readStreamPeek 0 65536) = false ∧
    Instr.wellFormed (.readStreamTake 0 65536) = false ∧ Instr.wellFormed (.takeAnomaliesTake 0 256) = false ∧
    Instr.wellFormed (.takeAnomaliesPeek 0 256) = false ∧ Instr.wellFormed (.readHistory 0 4294967296 1) = false ∧
    Instr.wellFormed (.readHistory 0 0 256) = false ∧ Instr.wellFormed (.countersPeek 0 256 0) = false ∧
    Instr.wellFormed (.countersPeek 0 1 256) = false ∧ Instr.wellFormed (.countersTake 0 256 0) = false ∧
    Instr.wellFormed (.countersTake 0 1 256) = false := by decide

/-! ## The decoder: no row of the table has bits -/

theorem test_no_word_spells_a_command : decodeTableWord 0 0 = none ∧ decodeTableWord 8 255 = none := by decide

theorem test_fetch_word_changes_nothing : (State.reset.withFetchWord 8 1).pending = [] := by decide +kernel

/-! ## Worked examples and tables of the manual -/

/-- About This Manual: the bytes "123456789" give 0x29B1. -/
theorem test_crc_check_value : crc16 [0x31, 0x32, 0x33, 0x34, 0x35, 0x36, 0x37, 0x38, 0x39] = 0x29B1#16 := by decide +kernel

/-- About This Manual: the duration code 200 means 320 units; the ends of the four ranges. -/
theorem test_duration_code : duration 200 = 320 ∧ duration 127 = 127 ∧ duration 128 = 128 ∧ duration 192 = 256 ∧
    duration 224 = 512 ∧ duration 255 = 1008 := by decide

/-- R129: the filter time of code 0xB, read from its table. -/
theorem test_filter_time : filterTime 0 = 0 ∧ filterTime 11 = 1000 ∧ filterTime 15 = 20000 := by decide

/-- R8, worked check: seed 0x00561234 and payload 01 02 03 04 give 0x2CC31838. -/
theorem test_worked_check : payloadCheck 0x00561234 [1, 2, 3, 4] = 750983224 ∧ payloadCheck 0x00561234 [] = 0x00561234 := by
  decide +kernel

/-- Worked budget: 9,000 payload bytes from 20 pages before a sector's end take 37 pages, and 712 in mid-sector take 3. -/
theorem test_worked_page_counts : pageCount (37 * 256 + 236) 9000 = 37 ∧ pageCount (37 * 256 + 100) 712 = 3 ∧
    pageCount 256 0 = 2 := by decide +kernel

/-- Worked budget: V = 4,813 mV, E = 2,884,617 µJ, and available energy 2,705,817 µJ with 12 pages outstanding; the answer to
37 pages of class 0 is yes. -/
theorem test_worked_budget : voltage 3585 5500 = 4813 ∧ energyOf BudgetSettings.default 4813 = 2884617 ∧
    Budget.available ⟨BudgetSettings.default, 2884617, 12, false⟩ = 2705817 ∧
    Budget.answer ⟨BudgetSettings.default, 2884617, 0, false⟩ 0 37 = true := by decide +kernel

/-- R162: stuffing replaces 0x7E and 0x7D. -/
theorem test_stuffing : stuff [0x7E, 0x41, 0x7D] = [0x7D, 0x5E, 0x41, 0x7D, 0x5D] := by decide

/-- Formats: the source word of domain 1 and unit 3, and of the largest address. -/
theorem test_source_word : SourceAddr.word ⟨1, 3⟩ = 1027 ∧ SourceAddr.word ⟨63, 1023⟩ = 65535 := by decide

/-! ## The machine -/

/-- A microsecond on an empty queue: the sweep timer of reset has 1,000 µs to go. -/
theorem test_tick : nextIs (step State.reset) (fun t => decide (t.tick = 1 ∧ t.sweepTimer = some 999)) = true := by
  decide +kernel

theorem test_step_takes_the_front : nextIs (step { idle with pending := [.tickWrap, .parserTake] })
    (fun t => decide (t.wrap = 1 ∧ t.pending = [.parserTake])) = true := by decide +kernel

theorem test_power_on_reset : nextIs (exec (.powerOnReset true false) capture)
    (fun t => decide (t.tick = 0 ∧ t.recovering = true ∧ t.link.bitRate = 460800)) = true := by decide +kernel

/-! ## Capture lanes -/

/-- R159, R160: with both slots HELD, select asserted counts OVERRUN and the lane skips. -/
theorem test_select_overrun :
    nextIs (exec (.selectAsserted 3 false) (onLane (laneOf .waiting (.held [1]) (.held [2]) false [])))
      (fun t => decide ((t.lane 3).counters.overrun = 1 ∧ (t.lane 3).rx = .skipping)) = true := by decide +kernel

/-- R169: an assertion at the moment of a reconfiguration that was taken first makes the lane skip, without a count. -/
theorem test_select_found_asserted :
    nextIs (exec (.selectAsserted 3 true) (onLane (laneOf .waiting .empty .empty false [])))
      (fun t => decide ((t.lane 3).counters = LaneCounters.zero ∧ (t.lane 3).rx = .skipping ∧ (t.lane 3).slot0 = .empty))
      = true := by decide +kernel

/-- R159: the first sampled bit is the most significant. -/
theorem test_clock_edge_order :
    nextIs (exec (.clockRisingEdge 3 false)
      (onLane (laneOf .receiving (.filling []) .empty true [true, false, false, false, false, false, false])))
      (fun t => decide ((t.lane 3).slot0 = .filling [0x80])) = true := by decide +kernel

/-- R159: an incomplete byte at the end of a fragment is a LENGTH error. -/
theorem test_select_released_length :
    nextIs (exec (.selectReleased 3) (onLane (laneOf .receiving (.filling [1, 2]) .empty true [true])))
      (fun t => decide ((t.lane 3).counters.length = 1 ∧ (t.lane 3).slot0 = .empty)) = true := by decide +kernel

/-- Worked frame: 0x7D followed by another byte discards with STUFFING and the lane skips; 0x7D 0x5E stores 0x7E. -/
theorem test_async_stuffing :
    nextIs (exec (.asyncLaneByte 3 0x41 false true) (onLane (asyncOf .receiving (.filling [2]) true)))
      (fun t => decide ((t.lane 3).counters.stuffing = 1 ∧ (t.lane 3).rx = .skipping)) = true ∧
    nextIs (exec (.asyncLaneByte 3 0x5E true true) (onLane (asyncOf .receiving (.filling [2]) true)))
      (fun t => decide ((t.lane 3).slot0 = .filling [2, 0x7E])) = true := by decide +kernel

/-- The bytes of a fragment of class 2, domain 1, unit 1, laid out by hand (Formats), with their CRC-16. -/
def lineBytes (kind number : Byte) (payload : List Byte) : List Byte :=
  let front := [kind, 0x02, 0x01, 0x04, number, BitVec.ofNat 8 payload.length] ++ payload
  front ++ crcBytes front

theorem test_fragment_layout : Fragment.parse (lineBytes 2 4 [0x7E, 0x41]) = some ⟨.middle, 2, ⟨1, 1⟩, 4, [0x7E, 0x41]⟩ ∧
    completionCheck (lineBytes 2 4 [0x7E, 0x41]) = none := by decide +kernel

/-- One HELD fragment on lane 3. -/
def staged (s : State) (bytes : List Byte) : State :=
  { s.setLane 3 (laneOf .waiting (.held bytes) .empty false []) with heldOrder := [(3, false)] }

/-- R142, R145: an EVENT becomes a history entry with its code. -/
theorem test_parser_event : nextIs (exec .parserTake (staged idle (lineBytes 5 0 [0x34, 0x12, 9])))
    (fun t => decide (t.history.ring.map HEntry.code = [0x1234] ∧ (t.lane 3).counters.accepted = 1)) = true := by
  decide +kernel

/-- R45: a FIRST in CAPTURE opens a record of domain 1's stream 8 × 1 + 1 = 9. -/
theorem test_parser_first : nextIs (exec .parserTake (staged capture (lineBytes 1 0 [7])))
    (fun t => decide ((t.stream 9).state = .assembling ∧ (t.stream 9).record.bytes = 1)) = true := by decide +kernel

/-! ## Reassembly -/

/-- R65: a stream at the age limit is closed AGED. -/
theorem test_sweep_ages_out :
    nextIs (exec .sweepTimerExpiry { onStream capture .assembling { recordOf 1 0 [] with age := 8 } with cursor := 9 })
      (fun t => decide ((t.stream 9).state = .idle ∧ t.cursor = 10 ∧ t.reassembly.aged = 1)) = true := by decide +kernel

/-! ## Trigger lines -/

/-- Worked line: code 7, prescale 2; the run that completes makes the count 1, and the next edge fires. -/
theorem test_worked_line :
    nextIs (exec (.filterRunComplete 2) (onLine watch (lineOf .openEpoch 7 2 0 (some (false, 1100)))))
      (fun t => decide ((t.line 2).count = 1 ∧ (t.line 2).edges = 1 ∧ (t.line 2).level = false)) = true ∧
    nextIs (exec (.filterRunComplete 2) (onLine watch (lineOf .openEpoch 7 2 1 (some (false, 2000)))))
      (fun t => decide ((t.line 2).count = 0 ∧ (t.line 2).firings = 1 ∧ t.epoch.openCause = .trigger 2
        ∧ t.history.ring.map HEntry.tick = [2064])) = true := by decide +kernel

theorem test_trigger_input_starts_run :
    nextIs (exec (.triggerInputChange 2 false) (onLine { watch with tick := 1000 } (lineOf .openEpoch 7 2 0 none)))
      (fun t => decide ((t.line 2).run = some (false, 1000) ∧ (t.line 2).level = true)) = true := by decide +kernel

/-! ## Power, epochs -/

theorem test_scan_timer : nextIs (exec .scanTimerExpiry { watch with monitor :=
    { watch.monitor with scanning := false, scanTimer := some 0 } }) (fun t => t.monitor.scanning) = true := by decide +kernel

/-- R90, R91: a first scan; the smallest of the last four codes is still 0, and an A1 code below the threshold counts. -/
theorem test_scan_complete : nextIs (exec (.scanComplete 3590 2799) watch)
    (fun t => decide (t.monitor.codeUsed = 0 ∧ t.monitor.run = 1 ∧ t.monitor.scanTimer = some 1000)) = true := by decide +kernel

theorem test_window_and_quiet_expiry :
    nextIs (exec .windowExpiry capture) (fun t => decide (t.epoch.state = .flush ∧ t.epoch.flushCause = .window)) = true ∧
    nextIs (exec .quietExpiry capture) (fun t => decide (t.epoch.state = .flush ∧ t.epoch.flushCause = .quiet)) = true := by
  decide +kernel

theorem test_grace_expiry : nextIs (exec .graceExpiry flushing) (fun t => t.epoch.streamsClosed) = true := by decide +kernel

/-! ## The flash -/

/-- R82: the bytes of a page program stand in the flash when the flash reports ready, and a failure is a flash fault. -/
theorem test_page_program : nextIs (exec (.pageProgramComplete true) (flying idle ⟨.pageProgram, 3, [0xAB]⟩ .service))
    (fun t => decide (t.flashByte 768 = 0xAB ∧ t.port.inFlight = none ∧ t.commit.pages = 1)) = true ∧
    nextIs (exec (.pageProgramComplete false) (flying idle ⟨.pageProgram, 3, [0xAB]⟩ .service))
      (fun t => t.port.fault) = true := by decide +kernel

theorem test_state_byte : nextIs (exec (.stateByteProgramComplete true) (flying idle ⟨.stateByte, 300, [0x0F]⟩ .service))
    (fun t => decide (t.flashByte 76800 = 0x0F)) = true := by decide +kernel

theorem test_sector_erase : nextIs (exec (.sectorEraseComplete true)
    (flying { idle with flash := [(131072, 0x11), (196608, 0x22)] } ⟨.erase, 512, []⟩ .background))
    (fun t => decide (t.flashByte 131072 = 0xFF ∧ t.flashByte 196608 = 0x22 ∧ t.dir 2 = .blank)) = true := by decide +kernel

/-- R3, R7, R8: with the last in-use sector erased the next mark takes sector sequence 1 and the next record the seed 1. -/
theorem test_last_sector_erased : nextIs (exec (.sectorEraseComplete true)
    (flying { idle with
      directory := idle.directory.set 2 (.inUse ⟨7, 1, 0⟩ none)
      store := { idle.store with lastSectorSeq := 7, lastCheck := 0x00561234 } } ⟨.erase, 512, []⟩ .background))
    (fun t => decide (t.store.lastSectorSeq = 0 ∧ t.store.lastCheck = 1)) = true := by decide +kernel

theorem test_page_read_and_limit : nextIs (exec .pageReadComplete (flying idle ⟨.pageRead, 300, []⟩ .service))
    (fun t => decide (t.port.inFlight = none)) = true ∧
    nextIs (exec .flashTimeLimitExpiry (flying idle ⟨.erase, 512, []⟩ .background))
      (fun t => decide (t.port.fault = true ∧ t.port.lateReport = some .erase)) = true := by decide +kernel

/-! ## The service link -/

/-- The bytes of a line frame with this kind, tag and body, laid out by hand (R172, R173). -/
def requestLine (kind tag : Byte) (body : List Byte) : List Byte :=
  let front := [kind, tag, BitVec.ofNat 8 body.length, 0] ++ body
  front ++ crcBytes front

/-- The receiver with a frame gathered. -/
def gathered (bytes : List Byte) : State := { idle with link := { idle.link with rx := .gathering, gathered := bytes } }

/-- R173: a FLUSH frame with NORMAL is served: in CLOSED it is refused with the state's code 4. -/
theorem test_frame_is_served : nextIs (exec (.serviceLineByte 0x7E true) (gathered (requestLine 0x0A 5 [1])))
    (fun t => decide (t.link.tx.map (fun r => (r.kind, r.tag, r.status, r.body)) = [(0x0A, 5, .refusedState, [4])])) = true := by
  decide +kernel

/-- R176: the reply frame's kind is the request's + 0x80, and its body's length stands in bytes 3 and 4. -/
theorem test_reply_frame : (Reply.frame ⟨0x0A, 5, .ok, [9], true, false⟩).take 6 = [0x8A, 5, 0, 1, 0, 9] := by decide +kernel

theorem test_reply_sent : nextIs (exec (.replySent false false) { idle with link := { idle.link with
    tx := [⟨0x0A, 5, .ok, [], true, false⟩], server := .replying, queue := [⟨.flush false, 5, 0, 0⟩] } })
    (fun t => decide (t.link.counters.repliesSent = 1 ∧ t.link.queue = [] ∧ t.link.server = .free)) = true := by decide +kernel

/-- Whether the outcome is a next state whose last reply has this status and passes a test on its body. -/
def answers (o : Host.Outcome State Fault Refusal) (status : Status) (test : List Byte → Bool) : Bool :=
  nextIs o fun t => match t.link.tx.getLast? with
    | some r => decide (r.status = status) && test r.body
    | none => false

theorem test_unknown_kind : answers (exec (.unknownKindRequest 1 23) idle) .unknownRequest (·.isEmpty) = true := by
  decide +kernel

/-- R178, test 2: during recovery IDENTIFY is answered, by BAD_ARGUMENT when its body is bad, and STATUS gets RETRY. -/
theorem test_recovering_answers : answers (exec (.identify 1) State.reset) .ok (fun b => decide (b.length = 31)) = true ∧
    answers (exec (.status 1) State.reset) .retry (·.isEmpty) = true ∧
    answers (exec (.unknownKindRequest 1 1) State.reset) .badArgument (·.isEmpty) = true := by decide +kernel

/-- R174: with four requests queued the next is discarded and counted. -/
theorem test_queue_full : nextIs (exec (.status 1) { idle with link := { idle.link with
    queue := List.replicate 4 ⟨.status, 0, 0, 0⟩, server := .replying } })
    (fun t => decide (t.link.queue.length = 4 ∧ t.link.counters.queueFull = 1)) = true := by decide +kernel

theorem test_status : answers (exec (.status 1) watch) .ok (fun b => decide (b.length = 70 ∧ b.headD 0 = 1)) = true := by
  decide +kernel

theorem test_configure_lane : answers (exec (.configureLane 1 5 2 417 true false) watch) .applied (·.isEmpty) = true ∧
    answers (exec (.configureLane 1 5 3 417 true false) watch) .badArgument (·.isEmpty) = true := by decide +kernel

theorem test_configure_trigger : answers (exec (.configureTrigger 1 5 0 4 8 3) watch) .applied (·.isEmpty) = true ∧
    answers (exec (.configureTrigger 1 5 0 4 3 3) watch) .badArgument (·.isEmpty) = true := by decide +kernel

/-- R30: the ranges of the defaults, 8 streams each, fill the table, so that a wider range overlaps. -/
theorem test_configure_domain : answers (exec (.configureDomain 1 1 true false 8 4) watch) .overlap (·.isEmpty) = true ∧
    answers (exec (.configureDomain 1 63 true false 504 3) capture) .pending (·.isEmpty) = true := by decide +kernel

theorem test_configure_primary : answers (exec (.configurePrimary 1 true true 0 6) watch) .overlap (·.isEmpty) = true ∧
    answers (exec (.configurePrimary 1 false true 0 6) watch) .applied (·.isEmpty) = true := by decide +kernel

/-- R32, R33: a disabled stream goes to BARRED; the block limit byte 0 means 256. -/
theorem test_configure_streams : nextIs (exec (.configureStreams 1 511 1 0 0) watch)
    (fun t => decide ((t.stream 511).state = .barred ∧ (t.stream 511).settings.active = ⟨false, 256⟩)) = true ∧
    answers (exec (.configureStreams 1 511 2 0 0) watch) .badArgument (·.isEmpty) = true := by decide +kernel

theorem test_configure_aging : nextIs (exec (.configureAging 1 4 600 0 8) watch)
    (fun t => decide (t.aging.active = ⟨4, 511, 0, 8⟩ ∧ t.cursor = 4 ∧ t.sweepTimer = none)) = true := by decide +kernel

theorem test_configure_pool : nextIs (exec (.configurePool 1 2000) watch)
    (fun t => decide (t.poolReserve.active = 1024)) = true := by decide +kernel

theorem test_configure_budget : nextIs (exec (.configureBudget 1 5500 470 3300 0 0 9) watch)
    (fun t => decide (t.budget.settings.pageCost = 1 ∧ t.budget.settings.ceiling = 3)) = true ∧
    answers (exec (.configureBudget 1 5500 470 3300 0 0 9) holdup) .refusedState (·.isEmpty) = true := by decide +kernel

theorem test_configure_adc : answers (exec (.configureAdc 1 10 3100 3100 4) watch) .badArgument (·.isEmpty) = true ∧
    answers (exec (.configureAdc 1 10 3099 3100 4) watch) .applied (·.isEmpty) = true := by decide +kernel

theorem test_configure_epoch : answers (exec (.configureEpoch 1 0 0 0 0 0 2 8) capture) .refusedState (·.isEmpty) = true ∧
    nextIs (exec (.configureEpoch 1 0 0 0 0 0 2 8) watch) (fun t => !t.epoch.settings.autoRearm) = true := by decide +kernel

/-- The lengths of the READ-CONFIG replies (Formats). -/
theorem test_read_config_lengths :
    answers (exec (.readConfigLane 1 15) watch) .ok (fun b => decide (b.length = 19)) = true ∧
    answers (exec (.readConfigTrigger 1 5) watch) .ok (fun b => decide (b.length = 12)) = true ∧
    answers (exec (.readConfigDomain 1 63) watch) .ok (fun b => decide (b = [1, 0xF8, 1, 3, 0, 1, 0xF8, 1, 3])) = true ∧
    answers (exec (.readConfigPrimary 1) watch) .ok (fun b => decide (b.length = 9)) = true ∧
    answers (exec (.readConfigStreams 1 448 64) watch) .ok (fun b => decide (b.length = 320)) = true := by decide +kernel

theorem test_read_config_lengths_more :
    answers (exec (.readConfigAging 1) watch) .ok (fun b => decide (b.length = 15)) = true ∧
    answers (exec (.readConfigPool 1) watch) .ok (fun b => decide (b = [128, 0, 0, 128, 0, 0, 8])) = true ∧
    answers (exec (.readConfigBudget 1) watch) .ok (fun b => decide (b.length = 45)) = true ∧
    answers (exec (.readConfigAdc 1) watch) .ok (fun b => decide (b.length = 28)) = true ∧
    answers (exec (.readConfigEpoch 1) watch) .ok (fun b => decide (b.length = 59)) = true := by decide +kernel

/-- Worked conversion: the anchor of 1,700,000,000 s and 250,000 µs at tick 5,000,000 gives at tick 9,000,000 the time
1,700,000,004 s and 250,000 µs. -/
theorem test_worked_conversion : answers (exec (.getTime 1)
      { idle with tick := 9000000, anchor := some ⟨1700000000, 250000, 5000000, 0⟩ }) .ok
      (fun b => decide (fieldOf b 29 8 = 1700000004 ∧ fieldOf b 37 4 = 250000)) = true ∧
    nextIs (exec (.setTimeSet 1 1700000000 250000) { idle with tick := 5000000 })
      (fun t => decide (t.anchor = some ⟨1700000000, 250000, 5000000, 0⟩)) = true ∧
    nextIs (exec (.setTimeClear 1) { idle with anchor := some ⟨1, 2, 3, 4⟩ }) (fun t => decide (t.anchor = none)) = true := by
  decide +kernel

/-- R144: LOG answers RING 1 and the sequence 1. -/
theorem test_log : answers (exec (.log 1 7 [1, 2]) idle) .ok (fun b => decide (b = [1, 1, 0, 0, 0])) = true := by decide +kernel

theorem test_open : answers (exec (.openEpoch 1) watch) .ok (fun b => decide (b = [1, 0])) = true ∧
    answers (exec (.openEpoch 1) idle) .refusedState (fun b => decide (b = [4])) = true := by decide +kernel

theorem test_flush : answers (exec (.flush 1 2) capture) .ok (·.isEmpty) = true ∧
    nextIs (exec (.flush 1 2) capture) (fun t => t.epoch.streamsClosed) = true := by decide +kernel

/-- R126: in CLOSED with LOW set and the rail down, the condition byte is 1 + 4. -/
theorem test_rearm : answers (exec (.rearm 1) { idle with monitor := { idle.monitor with power := .holdup } })
    .refusedState (fun b => decide (b = [5])) = true ∧
    nextIs (exec (.rearm 1) { idle with store := watch.store }) (fun t => decide (t.epoch.state = .watch)) = true := by
  decide +kernel

theorem test_store_requests : answers (exec (.listRecords 1 0 16) watch) .ok (fun b => decide (b.length = 18)) = true ∧
    answers (exec (.readRecord 1 5 0 1024) watch) .notFound (·.isEmpty) = true ∧
    answers (exec (.verify 1 5) watch) .notFound (·.isEmpty) = true := by decide +kernel

/-- R15: the host's idea of the oldest differs; the marks of R16 begin with the oldest. -/
theorem test_release : answers (exec (.release 1 5 5) watch) .mismatch (fun b => decide (b = [0, 0, 0, 0])) = true ∧
    nextIs (exec (.release 1 5 5) { watch with store := { watch.store with oldest := some (5, 257), lastSeq := 5 } })
      (fun t => decide (t.port.inFlight.map (fun x => x.op.page) = some 257)) = true := by decide +kernel

theorem test_save_and_format :
    nextIs (exec (.saveConfig 1) watch) (fun t => decide (t.port.inFlight.map (fun x => x.op) = some ⟨.erase, 0, []⟩)) = true ∧
    nextIs (exec (.format 1) watch)
      (fun t => decide (t.port.inFlight.map (fun x => x.op) = some ⟨.erase, 512, []⟩ ∧ t.store.low = true)) = true := by
  decide +kernel

theorem test_read_stream : answers (exec (.readStreamPeek 1 511) watch) .ok (fun b => decide (b.length = 32)) = true ∧
    answers (exec (.readStreamTake 1 512) watch) .badArgument (·.isEmpty) = true := by decide +kernel

/-- R153: TAKE of the CONFIG_LOST entry that reset has posted leaves none; PEEK leaves it. -/
theorem test_take_anomalies : answers (exec (.takeAnomaliesTake 1 32) idle) .ok (fun b => decide (b.headD 9 = 0)) = true ∧
    answers (exec (.takeAnomaliesPeek 1 32) idle) .ok (fun b => decide (b.headD 9 = 1)) = true := by decide +kernel

theorem test_read_history : answers (exec (.readHistory 1 1 17) idle) .badArgument (·.isEmpty) = true ∧
    answers (exec (.readHistory 1 1 16) idle) .ok (fun b => decide (b.length = 16)) = true := by decide +kernel

theorem test_counters : answers (exec (.countersPeek 1 7 0) idle) .ok (fun b => decide (b = [1, 0, 0, 0, 0, 0])) = true ∧
    nextIs (exec (.countersTake 1 7 0) idle) (fun t => decide (t.anomalies.posted = 0)) = true := by decide +kernel

theorem test_wait : nextIs (exec (.wait 1 1 4200 2000) { idle with store := { idle.store with lastSeq := 4200 } })
      (fun t => decide (t.link.parked = some ⟨1, .record 4200, some 2000000⟩ ∧ t.link.server = .free)) = true ∧
    answers (exec .waitTimeout { idle with
      store := { idle.store with lastSeq := 4200 }, link := { idle.link with parked := some ⟨3, .record 4200, some 0⟩ } })
      .timeout (fun b => decide (fieldOf b 0 4 = 4200)) = true := by decide +kernel

/-- R171, R186: the reset of a RESTART keeps the tick and samples the straps anew. -/
theorem test_restart : answers (exec (.restart 1 0) capture) .refusedState (fun b => decide (b = [2])) = true ∧
    nextIs (exec (.replySent true true) { idle with
      tick := 9, link := { idle.link with tx := [⟨0x16, 1, .ok, [], true, true⟩] } })
      (fun t => decide (t.lastReset = .restart ∧ t.tick = 9 ∧ t.recovering = true ∧ t.link.bitRate = 3000000)) = true := by decide +kernel

/-- R21 to R25: recovery of a blank store. -/
theorem test_recovery : nextIs (exec (.recovery none (.fault false)) State.reset) (fun t => decide (t.recovering = false ∧
    t.epoch.state = .watch ∧ t.store.tail = 256 ∧ t.store.erasedRun = 130816 ∧ t.store.low = false)) = true := by
  decide +kernel

/-! ## States and operands that meet the statements' hypotheses -/

theorem test_meets_EmptyQueuePassesOneMicrosecond : State.reset.pending = [] := by decide +kernel

theorem flying_in_device (s : State) (op : FlashOp) (c : Claimant) (h : op.page < 131072) : (flying s op c).PortInDevice := by
  intro x hx
  simp only [flying, Option.some.injEq] at hx
  subst hx
  exact h

/-- The last page of the device is in it, and the first past it faults. -/
theorem test_meets_StopsOnlyPastTheDevice : (flying idle ⟨.pageRead, 131071, []⟩ .service).PortInDevice ∧
    faults (exec (.pageProgramComplete true) (flying idle ⟨.pageProgram, 131072, [0]⟩ .writer)) = true ∧
    faults (exec (.stateByteProgramComplete true) (flying idle ⟨.stateByte, 131072, [0]⟩ .writer)) = true ∧
    faults (exec .pageReadComplete (flying idle ⟨.pageRead, 131072, []⟩ .service)) = true ∧
    faults (exec (.sectorEraseComplete true) (flying idle ⟨.erase, 131072, []⟩ .background)) = true ∧
    faults (exec .flashTimeLimitExpiry (flying idle ⟨.erase, 131072, []⟩ .background)) = true := by
  exact ⟨flying_in_device _ _ _ (by decide), by decide +kernel⟩

theorem test_meets_StepKeepsMemoryCanonical : Memory.wf flashBlank State.reset.flash = true ∧
    Memory.wf poolBlank State.reset.pool = true ∧ nextIs (step State.reset) (fun _ => true) = true := by decide +kernel

theorem test_meets_StepKeepsCapacities : watch.queue.length ≤ 128 ∧ watch.history.ring.length ≤ 1024 ∧
    watch.history.list.length ≤ 256 ∧ watch.anomalies.entries.length ≤ 64 ∧ watch.link.queue.length ≤ 4 ∧
    watch.queue = [] ∧ watch.history.frozen = false ∧ watch.history.list = [] ∧
    nextIs (step watch) (fun _ => true) = true := by decide +kernel

/-- In WATCH with no record anywhere and the default source map. -/
theorem watch_map_lawful : watch.MapLawful := by
  have entries : ∀ d, d < 64 → (watch.domainEntry d).active = ⟨true, false, 8 * d, 3⟩ := by decide +kernel
  have same : ∀ d, d < 64 → (watch.domainEntry d).prospective = (watch.domainEntry d).active := by decide +kernel
  have law : ∀ entry : Nat → DomainEntry, ∀ p : Primary, p.enabled = false → (∀ d, d < 64 → entry d = ⟨true, false, 8 * d, 3⟩) →
      MapLaw entry p := fun entry p off h =>
    ⟨fun d hd _ => by rw [h d hd]; show 8 * d + 8 ≤ 512; omega, fun on => absurd (off.symm.trans on) (by decide),
      fun d e hd he n _ _ => by
        rw [h d hd, h e he]; show 8 * d + 8 ≤ 8 * e ∨ 8 * e + 8 ≤ 8 * d; omega,
      fun d _ on => absurd (off.symm.trans on) (by decide)⟩
  exact ⟨law _ _ (by decide +kernel) entries, law _ _ (by decide +kernel) fun d h => (same d h).trans (entries d h),
    fun _ => ⟨by decide +kernel, by decide +kernel⟩⟩

theorem test_meets_StepKeepsBlocksInOnePlace : watch.MapLawful ∧ watch.BlocksLawful ∧
    nextIs (step watch) (fun _ => true) = true := by
  have quiet : watch.StreamsQuiet := by unfold State.StreamsQuiet; decide +kernel
  have places : watch.blockPlaces = List.range 2048 := by decide +kernel
  have none_ : watch.writer.inFlight = none := by decide +kernel
  have free : watch.port.inFlight = none := by decide +kernel
  have waits : watch.port.waitWriter = none := by decide +kernel
  have state : watch.epoch.state = .watch := by decide +kernel
  have writer : watch.writer.state = .idle := by decide +kernel
  refine ⟨watch_map_lawful, ⟨List.Perm.of_eq places, by decide +kernel,
    fun _ => ⟨quiet, by decide +kernel, none_, Or.inl writer⟩, fun h => ?_, fun h => ?_, fun h => ?_, fun h => ?_,
    fun f h => ?_, fun op h => ?_, fun x h => ?_, fun h => ?_⟩, by decide +kernel⟩
  · rw [state] at h; cases h
  · rw [state] at h; cases h
  · rcases h with h | h <;> (rw [state] at h; cases h)
  · rw [writer] at h; cases h
  · rw [none_] at h; cases h
  · rw [waits] at h; cases h
  · rw [free] at h; cases h
  · exact absurd h (by decide +kernel)

/-- With a command that is no reset in front, and with none: no image is loaded, so nothing is asked of one. -/
theorem test_meets_StepKeepsSourceMapLaw : watch.MapLawful ∧
    nextIs (step { watch with pending := [.tickWrap] }) (fun _ => true) = true ∧ watch.pending = [] :=
  ⟨watch_map_lawful, by decide +kernel, by decide +kernel⟩

theorem test_meets_MemoriesAndTimeChangeOnlyByTheirCommands : (Instr.windowExpiry).mayChangeFlash = false ∧
    Instr.windowExpiry ≠ .parserTake ∧ (∀ a b, Instr.windowExpiry ≠ .powerOnReset a b) ∧
    (∀ n a b, Instr.windowExpiry ≠ .recovery (some n) (.reset a b)) ∧ Instr.windowExpiry ≠ .tickWrap ∧
    nextIs (exec .windowExpiry capture) (fun _ => true) = true :=
  ⟨by decide, by decide, fun _ _ h => (by cases h), fun _ _ _ h => (by cases h), by decide, by decide +kernel⟩

/-- A blank flash, and one whose sector 0 holds a byte and no image. -/
theorem test_meets_PowerOnResetState : Memory.isClear [] 0 65536 = true ∧ Memory.isClear [(0, 0)] 0 65536 = false ∧
    imagePasses (Memory.load 0xFF [(0, 0)] 0 1416) = false := by decide +kernel

/-- Reset itself meets every hypothesis of the blank store. -/
theorem test_meets_RecoveryEndsAndFindsBlankStore : State.reset.recovering = true ∧ (∀ n a b, (none : Option Nat) = some n → RecoveryCut.fault true = .reset a b →
      (State.reset.recover (some (n, .fault true))).stopped = false) ∧ idle.recovering = false ∧
    State.reset.flash = [] ∧ State.reset.monitor.power = .main ∧ State.reset.epoch.settings.autoRearm = true ∧
    State.reset.epoch.settings.closeReserve ≤ 1024 ∧ State.reset.writer = Writer.start ∧ State.reset.examDue = false ∧
    State.reset.link.server = .free ∧ State.reset.link.parked = none :=
  ⟨by decide +kernel, fun _ _ _ h => (by cases h), by decide +kernel⟩

/-- The values of a record of `n` payload bytes. -/
def infoOf (kind : RecKind) (n : Nat) : RecInfo := ⟨kind, 0, ⟨0, 0⟩, 0, .complete, 0, false, 0, 0, n, 0, 0⟩

/-- These bytes from an address on, as cells. -/
def cellsAt (a : Nat) (bytes : List Byte) : List Host.Cell := bytes.zipIdx.map fun x => (a + x.2, x.1)

/-- Sector 1 in use by epoch 1, its mark (its bytes as Formats lays them out, the CRC-16 computed by the encoder) programmed and
its first record at page 257; then these cells. -/
def marked (more : List Host.Cell) : State := { State.reset with
  flash := cellsAt 65536 [127, 1, 0, 0, 0, 1, 0, 1, 199, 128] ++ more
  directory := State.reset.directory.set 1 (.inUse ⟨1, 1, 1⟩ (some 5)) }

/-- Sector 2 in use as well, with a first record at page 513. -/
def markedTwice : State := { marked (cellsAt 131072 [127, 2, 0, 0, 0, 1, 0, 1, 31, 2]) with
  directory := (marked []).directory.set 2 (.inUse ⟨2, 1, 1⟩ none) }

/-- The header of record 5, an OPEN_MARK of epoch 1, with this state byte, payload length and check, at page 257. -/
def header5 (state n c0 c1 : Byte) : List Host.Cell := cellsAt 65792
  ([state, 5, c0, c1, 5, 0, 0, 0, 1, 0, 0, 0, 0, 0, 0, 0, 0, 0, 0, 0, n] ++ List.replicate 15 0 ++ [1, 0, 0, 0])

/-- With 47 bytes of payload, as an OPEN_MARK has. -/
def headed (state : Byte) : State := marked (header5 state 47 170 26)

def runOf (s : State) : Run := ⟨s, 0, false⟩

theorem blank_page (s : State) (p : Nat) (h : s.flash = []) : ∀ b ∈ s.page p, b = 0xFF := by
  intro b hb
  obtain ⟨i, _, rfl⟩ := List.mem_map.1 hb
  rw [h]
  rfl

/-- The mark scan: a page 0 that is blank, one with a mark (with no header at its first-record page, and with one, whose sequence
the directory then holds), and one with another byte. The walk's page: blank; torn, with and
without a further in-use sector; a sequence equal to the last accepted one, and one above it; a record BEGUN and one VALID; and
the step to a page of the sector and out of it. -/
theorem test_meets_RecoveryScansAndWalksLog : Memory.wf 0xFF (marked []).flash = true ∧
    (∀ b ∈ State.reset.page 256, b = 0xFF) ∧ Mark.parse ((marked []).page 256) = some ⟨1, 1, 1⟩ ∧
    (marked []).markScan.dir 1 = .inUse ⟨1, 1, 1⟩ none ∧ (headed 0x3F).markScan.dir 1 = .inUse ⟨1, 1, 1⟩ (some 5) ∧
    (let page := ({ State.reset with flash := [(65541, 0x00)] } : State).page 256
     (∃ b ∈ page, b ≠ 0xFF) ∧ Mark.parse page = none) ∧
    State.reset.inUse = [] ∧ firstRecordPage (marked []).inUse = some 257 ∧ (∀ b ∈ State.reset.page 257, b = 0xFF) ∧
    (let page := (marked [(65800, 0x00)]).page 257
     page.headD 0xFF = 0xFF ∧ (∃ b ∈ page, b ≠ 0xFF)) ∧
    firstRecordPage ((marked []).inUseAfter 1) = none ∧ firstRecordPage (markedTwice.inUseAfter 1) = some 513 ∧
    (let page := (headed 0x7F).page 257
     page.headD 0xFF ≠ 0xFF ∧ Header.parse page = some ⟨0x7F, 5, 5, 1, 47, 0, 1⟩ ∧ 5 ≤ 5 ∧ 4 < 5) ∧
    (Header.parse ((headed 0x3F).page 257)).map Header.state = some 0x3F ∧
    stepPages 1 257 [] = .inl (258, []) ∧ stepPages 255 257 [] = .inr 512 ∧
    ((runOf (marked [])).stopped = false ∧ (runOf (marked [])).st.port.fault = false) ∧
    (let h : Header := ⟨0x3F, 5, 5, 1, 0, 0, 1⟩
     (marked (header5 0x3F 0 73 28)).recordSound 257 h = false ∧
     (marked (header5 0x3F 0 73 28 ++ cellsAt 65832 [1, 0, 0, 0, 0, 0, 0, 0])).recordSound 257 h = true) := by
  refine ⟨by decide +kernel, blank_page _ _ (by decide +kernel), by decide +kernel, by decide +kernel, by decide +kernel,
    ⟨⟨0, List.mem_map.2 ⟨5, by decide, by decide +kernel⟩, by decide⟩, by decide +kernel⟩, by decide +kernel,
    by decide +kernel, blank_page _ _ (by decide +kernel),
    ⟨by decide +kernel, 0, List.mem_map.2 ⟨8, by decide, by decide +kernel⟩, by decide⟩, by decide +kernel⟩

/-- Nothing accepted; a log of RELEASED records; and one whose oldest record stands behind a RELEASED one. -/
theorem test_meets_RecoverySetsRunAndPointers : Memory.wf 0xFF (marked []).flash = true ∧
    0 < (blankCheck 511 257 (marked [(131072, 0)])).store.erasedRun ∧
    (let a (seq : Nat) (state : RecState) : Accepted := ⟨257 + seq, ⟨0x3F, 1, seq, 1, 0, 0, 1⟩, state⟩
     [a 1 .released, a 2 .torn] = [a 1 .released] ++ a 2 .torn :: [] ∧ RecState.released ≠ .valid ∧
     [a 1 .released, a 2 .released] = [a 1 .released] ++ a 2 .released :: []) ∧
    State.reset.inUse = [] ∧ (marked []).inUse ≠ [] := by decide +kernel

/-- A flash with one byte besides blank ones reads blank elsewhere. -/
theorem byte_elsewhere (s : State) (x : Nat) (b : Byte) (h : s.flash = [(x, b)]) (a : Nat) (ha : a ≠ x) :
    s.flashByte a = 0xFF := by
  rw [State.flashByte, h]
  simp [Memory.read, Ne.symm ha, flashBlank]

/-- The blank check's cases: page 0 of a sector in use; a page after the tail that is not blank; the tail's own page alone not
blank; a run of the tail's pages up to a sector in use, of one sector up to one that is not blank, and of all 511. The newest
epoch of an accepted record, of the last sector mark, and of neither. -/
theorem test_meets_RecoverySetsRunAndPointers_run :
    ((marked []).dir 1 = .inUse ⟨1, 1, 1⟩ (some 5) ∧ 256 % 256 = 0) ∧
    ({ State.reset with flash := [(66300, 0)] } : State).flashByte 66300 ≠ 0xFF ∧ (257 + 1) * 256 ≤ 66300 ∧ 66300 < 131072 ∧
    (let s : State := { State.reset with flash := [(65792, 0)] }
     s.flashByte 65792 ≠ 0xFF ∧ ∀ a, (257 + 1) * 256 ≤ a → s.flashByte a = 0xFF) ∧
    (let s : State := { State.reset with flash := [(196608, 0)], directory := (marked []).directory }
     (∀ a, 256 * 256 ≤ a → a < 196608 → s.flashByte a = 0xFF) ∧ s.flashByte 196608 ≠ 0xFF ∧ s.dir 2 = .unknown ∧
     s.dir 3 = .unknown ∧ (1 + 0) % 511 + 1 = 2 ∧ (511 + 0) % 511 + 1 = 1) ∧
    ((∀ a, State.reset.flashByte a = 0xFF) ∧ ∀ n, n < 512 → State.reset.dir n = .unknown) ∧
    (newestEpoch (marked []) [⟨257, ⟨0x3F, 5, 5, 9, 47, 0, 1⟩, .valid⟩] = 9 ∧
      (marked []).inUse = [] ++ [⟨1, ⟨1, 1, 1⟩, some 5⟩] ∧ State.reset.inUse = []) := by
  refine ⟨by decide +kernel, by decide +kernel, by decide, by decide, ⟨by decide +kernel, fun a h => ?_⟩,
    ⟨fun a _ h => ?_, by decide +kernel⟩, ⟨fun _ => rfl, by decide +kernel⟩, by decide +kernel⟩
  · exact byte_elsewhere _ 65792 0 rfl a (by omega)
  · exact byte_elsewhere _ 196608 0 rfl a (by omega)

/-- The store with the OPEN_MARK of epoch 1 at page 257, after the walk: `tail` is where the close mark would go. -/
def interruptedAt (tail : Nat) : State := { headed 0x3F with
  store := { State.reset.store with tail := tail, erasedRun := 2, lastSeq := 5, lastSectorSeq := 1 }
  epoch := { State.reset.epoch with number := 1 } }

def openMarkAt : Accepted := ⟨257, ⟨0x3F, 5, 5, 1, 47, 0, 1⟩, .valid⟩

def closeMarkAt : Accepted := ⟨258, ⟨0x3F, 6, 6, 1, 30, 0, 1⟩, .valid⟩

/-- An OPEN_MARK with no close mark after it and with one; room, at page 0 of a sector and within one, for just the pages it
takes; and one page too few. -/
theorem test_meets_RecoveryClosesInterruptedEpoch : (openMarkAt.header.epoch = 1 ∧ openMarkAt.header.kind = 5 ∧
      openMarkAt.header.payloadLen = 47) ∧ [openMarkAt] = [] ++ openMarkAt :: [] ∧
    (openMarkAt.header.seq < closeMarkAt.header.seq ∧ closeMarkAt.header.epoch = 1 ∧ closeMarkAt.header.kind = 6 ∧
      closeMarkAt.state = .valid) ∧
    (let s := interruptedAt 512
     s.store.exhausted = false ∧ s.store.tail % 256 = 0 ∧ 2 ≤ s.store.erasedRun ∧ s.port.fault = false ∧ s.epoch.number = 1 ∧
     Memory.wf 0xFF s.flash = true ∧ s.store.lastSectorSeq < 4294967295) ∧
    (interruptedAt 258).store.tail % 256 ≠ 0 ∧ (runOf (interruptedAt 512)).stopped = false ∧ 1 < 2 ∧
    ({ interruptedAt 258 with port := { State.reset.port with fault := true } } : State).port.fault = true ∧
    (headed 0x3F).recovering = true := by decide +kernel

/-- What recovery knows of the epoch it closes: its OPEN_MARK kept and torn, and an erased run one page short. -/
theorem test_meets_RecoveryClosesInterruptedEpoch_payload : openMarkAt.state = .valid ∧
    (RecState.torn ≠ .valid ∧ RecState.torn ≠ .released) ∧ (openMarkAt.header.payloadLen = 47 ∧ openMarkAt.header.kind = 5) ∧
    (interruptedAt 512).store.erasedRun < 3 ∧
    ({ interruptedAt 512 with store := { (interruptedAt 512).store with erasedRun := 1 } } : State).store.erasedRun < 2 := by
  decide +kernel

/-- R25, R6: a power-on reset stops the close mark's state byte, the third program of recovery here (the first turns the
record, which has no trailer, TORN). -/
theorem test_recovery_cut_by_reset : (({ headed 0x3F with
    flash := (headed 0x3F).flash ++ [(131072, 0)] } : State).recover (some (2, .reset true false))).stopped = true := by
  decide +kernel

/-- R24, log 8: a power-on reset stops the TORN program of the re-check: last sequence stays the 7 it was; with the state byte of
the close mark stopped it is the 5 of the record in the store. And one that stops the TORN program of the walk. -/
theorem test_recovery_cut_before_pointers :
    (let s : State := { headed 0x3F with
       flash := (headed 0x3F).flash ++ [(131072, 0)], store := { State.reset.store with lastSeq := 7, lastCheck := 9 } }
     nextIs (exec (.recovery (some 0) (.reset false false)) s) (fun t => decide (t.store.lastSeq = 7 ∧ t.store.lastCheck = 9)) = true ∧
     nextIs (exec (.recovery (some 2) (.reset false false)) s) (fun t => decide (t.store.lastSeq = 5)) = true) ∧
    ((runOf (headed 0x7F)).tear (some (0, .reset false false)) 257).stopped = true := by decide +kernel

/-- The state that `RecoverySetsRunAndPointers` names: the re-check of the walk's record is stopped by a power-on reset, or not. -/
theorem test_meets_RecoverySetsRunAndPointers_cut :
    (let w : Option (Nat × RecoveryCut) := some (0, .reset false false)
     let walked := Run.walkLog ⟨(headed 0x3F).markScan, 0, false⟩ w
     (recheck w (newestEpoch walked.run.st walked.newestFirst) walked.newestFirst.reverse walked.run).2.stopped = true) ∧
    (let walked := Run.walkLog ⟨(headed 0x3F).markScan, 0, false⟩ none
     (recheck none (newestEpoch walked.run.st walked.newestFirst) walked.newestFirst.reverse walked.run).2.stopped = false) := by
  decide +kernel

/-- One lane for each case: select asserted already, a lane that skips, and the three states of the slots. -/
theorem test_meets_ClockedLaneGathersFragments :
    (∀ l : Lane, (onLane l).lane 3 = l) ∧ (laneOf .waiting .empty .empty true []).select = true ∧
    (laneOf .skipping .empty .empty false []).rx ≠ .waiting ∧
    (laneOf .waiting .empty .empty false []).slot0 = .empty ∧
    (laneOf .waiting (.held [1]) .empty false []).slot1 = .empty ∧ (laneOf .waiting (.held [1]) .empty false []).slot0 ≠ .empty ∧
    (laneOf .waiting (.held [1]) (.held [2]) false []).slot1 ≠ .empty ∧
    (laneOf .waiting (.held [1]) (.held [2]) false []).ready = false ∧
    (laneOf .waiting (.held [1]) .empty false []).ready = true ∧ (asyncOf .waiting .empty false).settings.mode ≠ .clocked ∧
    (∀ b, (laneOf .waiting (.held [1]) .empty false []).slot0 ≠ .filling b) :=
  ⟨fun _ => by simp [onLane], by decide +kernel, by decide +kernel, by decide +kernel, by decide +kernel, by decide +kernel,
    by decide +kernel, by decide +kernel, by decide +kernel, by decide +kernel, fun _ h => Slot.noConfusion h⟩

/-- The seventh bit, the eighth of the 264th byte, and the eighth of the 265th; and an edge that is ignored. -/
theorem test_meets_ClockedLaneGathersFragments_edges :
    (let l := laneOf .receiving (.filling []) .empty true (List.replicate 6 true)
     l.settings.mode = .clocked ∧ l.rx = .receiving ∧ l.select = true ∧ l.bits.length < 7) ∧
    (let l := laneOf .receiving (.filling (List.replicate 263 0)) .empty true (List.replicate 7 true)
     l.bits.length = 7 ∧ l.filling = some (List.replicate 263 0)) ∧
    (let l := laneOf .receiving .empty (.filling (List.replicate 264 0)) true (List.replicate 7 true)
     l.bits.length = 7 ∧ l.filling = some (List.replicate 264 0)) ∧
    (laneOf .waiting .empty .empty true []).rx ≠ .receiving := by decide +kernel

theorem test_meets_ClockedLaneGathersFragments_release :
    (laneOf .waiting .empty .empty false []).select = false ∧
    ((laneOf .waiting .empty .empty true []).select = true ∧ (laneOf .waiting .empty .empty true []).rx = .waiting) ∧
    (laneOf .skipping .empty .empty true []).rx = .skipping ∧
    (laneOf .receiving (.filling [1]) .empty true [true]).bits ≠ [] ∧
    (laneOf .receiving (.filling [1]) .empty true []).filling = some [1] ∧ completionCheck [1] = some .length ∧
    (laneOf .receiving (.held [1]) (.filling (lineBytes 2 4 [])) true []).filling = some (lineBytes 2 4 []) ∧
    completionCheck (lineBytes 2 4 []) = none := by decide +kernel

theorem test_meets_LaneChecksAndErrors : (laneOf .waiting .empty .empty true []).settings.report = false ∧
    ({ laneOf .waiting .empty .empty true [] with settings := ⟨.clocked, 417, false, true⟩ } : Lane).settings.report = true := by
  decide +kernel

/-- Seven bytes; kind 6; an EVENT of one payload byte; a length that the header does not name; a wrong CRC; an EVENT of the
longest payload, and one past it. -/
theorem test_meets_LaneChecksAndErrors_checks : completionCheck (List.replicate 7 1) = some .length ∧
    completionCheck (lineBytes 6 0 []) = some .badHeader ∧ completionCheck (lineBytes 5 0 [1]) = some .badHeader ∧
    completionCheck (lineBytes 2 0 [] ++ [0]) = some .length ∧
    completionCheck [2, 0, 0, 0, 0, 0, 0, 0] = some .check ∧
    completionCheck (lineBytes 5 0 (List.replicate 26 0)) = none ∧
    completionCheck (lineBytes 5 0 (List.replicate 27 0)) = some .badHeader := by decide +kernel

theorem test_meets_AsyncByteGathersFrame : LaneSettings.default.mode ≠ .async ∧
    (asyncOf .waiting .empty false).settings.mode = .async ∧ (asyncOf .waiting .empty false).settings.parityEven = true ∧
    (((List.range 8).filter fun i => (0x41 : Byte).getLsbD i).length + true.toNat) % 2 = 1 ∧
    (((List.range 8).filter fun i => (0x7E : Byte).getLsbD i).length + false.toNat) % 2 = 0 ∧
    (((List.range 8).filter fun i => (0x5D : Byte).getLsbD i).length + true.toNat) % 2 = 0 ∧
    (asyncOf .skipping .empty false).rx = .skipping ∧ (asyncOf .receiving (.filling []) true).escape = true := by decide +kernel

/-- Slot 0 EMPTY, slot 1 alone, and neither; the 264th byte and the 265th; a frame whose CRC agrees and one that is too short;
and a good byte stored, with its parity even. -/
theorem test_meets_AsyncByteGathersFrame_slots :
    (asyncOf .waiting .empty false).slot0 = .empty ∧
    ((asyncOf .waiting (.held [1]) false).slot0 ≠ .empty ∧ (asyncOf .waiting (.held [1]) false).slot1 = .empty) ∧
    ({ asyncOf .waiting (.held [1]) false with slot1 := .held [2] } : Lane).slot1 ≠ .empty ∧
    (asyncOf .receiving (.filling (List.replicate 263 0)) false).filling = some (List.replicate 263 0) ∧
    (asyncOf .receiving (.filling (List.replicate 264 0)) true).filling = some (List.replicate 264 0) ∧
    (asyncOf .receiving (.filling (lineBytes 2 4 [])) false).filling = some (lineBytes 2 4 []) ∧
    completionCheck (lineBytes 2 4 []) = none ∧ completionCheck [1] = some .length ∧
    ((((List.range 8).filter fun i => (0x41 : Byte).getLsbD i).length + false.toNat) % 2 = 0 ∧ (0x41 : Byte) ≠ 0x7E ∧
      (0x41 : Byte) ≠ 0x7D) ∧
    nextIs (exec (.asyncLaneByte 3 0x7E false true) (onLane (asyncOf .receiving (.filling (lineBytes 2 4 [])) false)))
      (fun t => decide (t.heldOrder = [(3, false)] ∧ (t.lane 3).slot0 = .held (lineBytes 2 4 []))) = true := by decide +kernel

theorem test_meets_CrcAndLaneFragmentRoundTrip : Fragment.Fits ⟨.only, 3, ⟨63, 1023⟩, 255, List.replicate 256 0⟩ ∧
    Fragment.Fits ⟨.event, 0, ⟨0, 0⟩, 0, List.replicate 26 0⟩ := by
  unfold Fragment.Fits; decide +kernel

theorem test_meets_ParserTakesFragments : (let s := staged idle (lineBytes 5 0 [0x34, 0x12, 9])
    s.heldOrder = [(3, false)] ∧ (s.lane 3).slot0 = .held (lineBytes 5 0 [0x34, 0x12, 9]) ∧ s.examDue = false) ∧
    (Fragment.parse (lineBytes 5 0 [0x34, 0x12, 9])).map Fragment.kind = some .event ∧ idle.heldOrder = [] := by decide +kernel

/-- The domain's own entry (valid), the primary domain, a unit past the span of 8, and an entry that is not valid. -/
theorem test_meets_ParserTakesFragments_records : (let s := staged capture (lineBytes 1 5 [7])
    s.heldOrder = [(3, false)] ∧ (s.lane 3).slot0 = .held (lineBytes 1 5 [7])) ∧
    Fragment.parse (lineBytes 1 5 [7]) = some ⟨.first, 2, ⟨1, 1⟩, 5, [7]⟩ ∧
    (capture.primary.active.enabled = false ∧ (capture.domainEntry 1).active.valid = true) ∧
    ({ capture with primary := ⟨⟨true, false, 1, 0⟩, none⟩ } : State).primary.active.domain = 1 ∧
    ({ capture with domains := Table.replicate 64 ⟨⟨false, false, 0, 0⟩, none⟩ } : State).domainEntry 1
      = ⟨⟨false, false, 0, 0⟩, none⟩ := by decide +kernel

theorem test_meets_BarredStreamDropsFragments : (fragOf .only 0 [] true).stream < 512 ∧
    ((onStream capture .barred InProgress.idle).stream 9).state = .barred ∧
    (fragOf .only 0 [] true).frag.kind = .only ∧ (fragOf .last 3 [] true).frag.kind = .last := by decide +kernel

theorem test_meets_IdleStreamRefusesContinuation : (fragOf .middle 3 [] true).stream < 512 ∧
    (capture.stream 9).state = .idle ∧ (fragOf .middle 3 [] true).frag.kind = .middle := by decide +kernel

/-- One state for each epoch state, and WATCH with LOW set and with the writer in FAULT. -/
theorem test_meets_GateAndAdmissionOfFragments : (watch.stream 9).state ≠ .barred ∧ watch.epoch.state = .watch ∧ watch.store.low = false ∧
    watch.writer.state ≠ .fault ∧ ({ watch with store := idle.store } : State).store.low = true ∧
    ({ watch with writer := { watch.writer with state := .fault } } : State).writer.state = .fault ∧
    capture.epoch.state = .capture ∧ flushing.epoch.state = .flush ∧ idle.epoch.state = .closed ∧
    (fragOf .first 0 [] true).opens = true ∧ (fragOf .first 0 [] false).opens = false ∧ 511 < 512 ∧
    (let s := onStream capture .assembling (recordOf 4 300 [10, 11])
     (s.stream 9).state = .assembling ∧ (s.stream 9).record = recordOf 4 300 [10, 11] ∧
     (fragOf .middle 4 [7] false).frag.number = (recordOf 4 300 []).expected ∧ s.appendFails 9 1 = none) := by decide +kernel

/-- A payload of 256 bytes that fits; an empty payload, which needs no block; a full pool; and a block limit of 0 blocks, which
only a state that no run reaches has. -/
theorem test_meets_OpeningFragmentsOpenRecords : (capture.stream 9).state = .idle ∧ capture.appendFails 9 256 = none ∧
    capture.appendFails 9 0 = none ∧ ({ capture with freeList := [] } : State).appendFails 9 1 = some .pool ∧
    (onStream capture .assembling ⟨2, 1, [], 0, 1, false, 0, 7, 3, 0, ⟨1, 1⟩⟩).appendFails 9 256 = none ∧
    (onStream { capture with freeList := [] } .assembling ⟨2, 1, [], 0, 1, false, 0, 7, 3, 0, ⟨1, 1⟩⟩).appendFails 9 1
      = some .pool := by decide +kernel

/-- The expected number 4: 3 is a duplicate, 2 stale, 4 and 6 taken; 255 closes; and a pool with nothing free. -/
theorem test_meets_AssemblingAndDiscardingStreams : (let s := onStream capture .assembling (recordOf 4 300 [10, 11])
    (s.stream 9).state = .assembling ∧ (s.stream 9).record = recordOf 4 300 [10, 11] ∧ 3 + 1 = (recordOf 4 300 []).expected ∧
    2 + 1 < (recordOf 4 300 []).expected ∧ (recordOf 4 300 []).expected ≤ 255 ∧ s.appendFails 9 212 = none) ∧
    (onStream { capture with freeList := [] } .assembling (recordOf 4 300 [10, 11])).appendFails 9 213 = some .pool ∧
    ((onStream capture .discarding InProgress.idle).stream 9).state = .discarding := by decide +kernel

/-- A record of 300 bytes in two blocks: 212 bytes more fit its chain, 213 need the block at the head of the free list. -/
theorem test_meets_AppendTestsAndStoresPayload : (let s := onStream capture .assembling (recordOf 4 300 [2046, 2047])
    (s.stream 9).record = recordOf 4 300 [2046, 2047] ∧ (recordOf 4 300 [2046, 2047]).chain.length = (300 + 255) / 256 ∧
    [2046, 2047].Nodup ∧ (∀ b ∈ s.freeList.head?, b ∉ [2046, 2047]) ∧ s.appendFails 9 212 = none ∧ s.appendFails 9 213 = none) ∧
    (2 * 256 - 300 < 213 ∧ 2 < (capture.stream 9).settings.active.blockLimit) ∧
    (let s := onStream { capture with freeList := List.range 128 } .assembling (recordOf 4 300 [2046, 2047])
     s.appendFails 9 213 = some .pool ∧ s.freeList.length ≤ s.poolReserve.active) ∧
    (onStream { capture with freeList := List.range 129 } .assembling (recordOf 4 300 [2046, 2047])).appendFails 9 213 = none ∧
    (recordOf 4 65536 (List.range 256)).chain.length = (65536 + 255) / 256 ∧
    (onStream capture .assembling (recordOf 4 65536 (List.range 256))).appendFails 9 1 = some .length := by decide +kernel

/-- The sweep's last index, a stream below the age limit and one at it. -/
theorem test_meets_SweepTestsStreamAtCursor : (watch.cursor < 512 ∧ watch.examDue = false ∧ watch.sweepTimer ≠ none) ∧
    ({ watch with cursor := 511 } : State).aging.active.last = 511 ∧ (watch.stream 0).state ≠ .assembling ∧
    (let s := onStream { capture with cursor := 9 } .assembling (recordOf 4 300 [10, 11])
     (s.stream 9).state = .assembling ∧ (s.stream 9).record.age ≠ s.aging.active.limit) ∧
    (onStream capture .assembling { recordOf 4 300 [10, 11] with age := 8 }).aging.active.limit = 8 ∧
    ({ watch with sweepTimer := none } : State).sweepTimer = none := by decide +kernel

/-- A queue entry of a class with a chain. -/
def entryOf (cls : Nat) (chain : List Nat) : QEntry :=
  ⟨⟨.dump, cls, ⟨1, 1⟩, 9, .complete, 3, false, 0, 1, 4, 5, 6⟩, chain, []⟩

theorem test_meets_OfferedRecordEntersOrIsLost : (List.replicate 127 (entryOf 2 [])).Pairwise (fun a b => a.info.cls ≤ b.info.cls) ∧
    (List.replicate 127 (entryOf 2 [])).length < 128 := by decide +kernel

theorem test_meets_OfferedRecordEntersOrIsLost_full :
    (List.replicate 127 (entryOf 2 []) ++ [entryOf 3 [7]]).Pairwise (fun a b => a.info.cls ≤ b.info.cls) ∧
    (List.replicate 127 (entryOf 2 []) ++ [entryOf 3 [7]]).length = 128 ∧ (entryOf 2 []).info.cls < (entryOf 3 [7]).info.cls ∧
    (entryOf 3 [7]).info.cls ≤ (entryOf 3 [8]).info.cls := by decide +kernel

/-- R58: a record closed COMPLETE with the GAP flag counts twice, one closed TRUNCATED under its cause alone. -/
theorem test_handed_over_is_counted :
    (let e := entryOf 2 []
     let gapped (how : Completion) : QEntry := { e with info := { e.info with gap := true, completion := how } }
     (capture.handOver (gapped .complete)).reassembly = { ReassemblyCounters.zero with complete := 1, completeGap := 1 } ∧
     (capture.handOver (gapped .pool)).reassembly = { ReassemblyCounters.zero with pool := 1 } ∧
     (capture.handOver e).reassembly = { ReassemblyCounters.zero with complete := 1 }) := by decide +kernel

/-- The writer in SELECTING with the tail at the last 65 pages of sector 1, all blank: room for one page of a DUMP beside the
close reserve of 64. -/
def tight (second : DirEntry) : State := { capture with
  writer := { capture.writer with state := .selecting }
  directory := capture.directory.set 2 second
  store := { capture.store with tail := 447, erasedRun := 65 } }

/-- The same part in HOLDUP with no energy: a DUMP that the budget refuses, and the OPEN_MARK behind it. -/
def tightHoldup : State := { tight .unknown with
  monitor := holdup.monitor
  queue := [entryOf 2 [], ⟨infoOf .openMark 47, [], []⟩] }

/-- A page that just fits, two that wait for the damaged sector behind the run and are refused without it; the scan past a
refused DUMP; the two reports in CAPTURE and in FLUSH; and an examination that finds nothing with the streams closed. -/
theorem test_meets_WriterExaminesQueue :
    (let s := tight .damaged
     s.store.exhausted = false ∧ s.writer.openMarkDropped = false ∧ pageCount s.store.tail 4 + 64 ≤ s.store.erasedRun ∧
     s.store.erasedRun < pageCount s.store.tail 209 + 64 ∧ s.monitor.power = .main ∧
     pageCount s.store.tail 209 + 64 ≤ s.store.erasedRun + s.erasable ∧ s.writer.state = .selecting) ∧
    (tight .unknown).store.erasedRun + (tight .unknown).erasable < pageCount 447 209 + 64 ∧
    (let s := tightHoldup
     s.queue = [entryOf 2 []] ++ ⟨infoOf .openMark 47, [], []⟩ :: [] ∧ s.powerCounters.refusals + 1 ≤ 4294967295 ∧
     s.monitor.power = .holdup ∧ (entryOf 2 []).info.kind = .dump ∧ s.spaceTest (entryOf 2 []).info = .fits ∧
     s.budget.answer 2 (pageCount s.store.tail 4) = false ∧ s.spaceTest (infoOf .openMark 47) = .fits ∧
     s.budget.available < s.budget.settings.pageCost ∧ s.budget.exhaustionMade = false ∧ s.epoch.storeFullTaken = false ∧
     s.epoch.state = .capture ∧ (scanQueue [] s.queue s).1 ≠ .nothing) ∧
    flushing.epoch.state = .flush ∧ watch.writer.state ≠ .selecting ∧
    (let s : State := { flushing with
       writer := { flushing.writer with state := .selecting }, epoch := { flushing.epoch with streamsClosed := true } }
     (scanQueue [] s.queue s).1 = .nothing ∧ s.reportExhaustion.examDue = false ∧ s.reportExhaustion.epoch.state = .flush ∧
     s.reportExhaustion.epoch.streamsClosed = true) := by decide +kernel

/-- A DUMP of 712 bytes in flight, `done` of its frame pages programmed. -/
def dumpInFlight (done : Nat) : InFlight :=
  ⟨⟨.dump, 2, ⟨1, 1⟩, 9, .complete, 3, false, 0, 3, 712, 5, 6⟩, [10, 11, 12], 0, [], 3, done, none, 0, 1, 1, 0, 4⟩

/-- The writer with that record in flight and a page program at the tail. -/
def programming (tail done : Nat) : State :=
  flying { capture with
    store := { capture.store with tail := tail }
    writer := { capture.writer with state := .programming, inFlight := some (dumpInFlight done) } }
    ⟨.pageProgram, tail, [1]⟩ .writer

/-- In mid-sector, at a sector's mark page, and at the device's last page; the program that brings the run to the close
reserve; and a first frame page with its running check at the seed. -/
theorem test_meets_PageProgramAdvancesTail : (let s := programming 131071 2
    s.port.inFlight = some ⟨⟨.pageProgram, s.store.tail, [1]⟩, .writer, some 5000⟩ ∧ s.store.tail < 131072 ∧
    s.writer.inFlight = some (dumpInFlight 2) ∧ s.examDue = false ∧ s.recovering = false ∧ s.port.waitService = none ∧
    s.epoch.settings.closeReserve < s.store.erasedRun - 1 ∧ (dumpInFlight 2).chain.length = (712 + 255) / 256 ∧
    s.store.tail % 256 ≠ 0) ∧
    (let s : State := flying (programming 512 0) ⟨.pageProgram, 512, Mark.bytes ⟨1, 1, 1⟩⟩ .writer
     s.store.tail % 256 = 0 ∧ s.store.lastSectorSeq < 4294967295 ∧ (Mark.bytes ⟨1, 1, 1⟩ |>.drop 1).take 4 = le 4 1 ∧
     s.port.inFlight = some ⟨⟨.pageProgram, 512, Mark.bytes ⟨1, 1, 1⟩⟩, .writer, some 5000⟩) ∧
    (let s : State := { programming 300 1 with store := { (programming 300 1).store with erasedRun := 65 } }
     ¬ s.epoch.settings.closeReserve < s.store.erasedRun - 1 ∧ s.epoch.storeFullTaken = false ∧ s.epoch.state = .capture ∧
     s.epoch.streamsClosed = false ∧ s.writer.state ≠ .selecting) ∧
    (((List.range 712).map (capture.chainByte [10, 11, 12])).length = (dumpInFlight 0).info.payloadLen ∧
      ((dumpInFlight 0).sumA, (dumpInFlight 0).sumB) = sumBytes (sumSeed (dumpInFlight 0).seed) []) ∧
    nextIs (exec (.pageProgramComplete true) (programming 131071 2)) (fun t => decide (t.store.tail = 256)) = true := by
  decide +kernel

/-- R11: the header of a record at its sector's first-record page, and one at a later page of a sector that has its sequence. -/
theorem test_meets_PageProgramAdvancesTail_directory :
    (let s : State := { programming 257 0 with directory := capture.directory.set 1 (.inUse ⟨1, 1, 1⟩ none) }
     (dumpInFlight 0).done = 0 ∧ s.dir (257 / 256) = .inUse ⟨1, 1, 1⟩ none ∧ 1 = 257 % 256 ∧
     nextIs (exec (.pageProgramComplete true) s) (fun t => decide (t.dir 1 = .inUse ⟨1, 1, 1⟩ (some 1))) = true) ∧
    (let s : State := { programming 300 0 with directory := capture.directory.set 1 (.inUse ⟨1, 1, 1⟩ (some 5)) }
     s.dir 1 ≠ .inUse ⟨1, 1, 1⟩ none ∧
     nextIs (exec (.pageProgramComplete true) s) (fun t => decide (t.dir 1 = .inUse ⟨1, 1, 1⟩ (some 5))) = true) := by
  decide +kernel

theorem test_meets_StateByteMakesRecordValid :
    (let s := flying { programming 300 3 with queue := [] } ⟨.stateByte, 297, [0x3F]⟩ .writer
     s.port.inFlight = some ⟨⟨.stateByte, 297, [0x3F]⟩, .writer, some 5000⟩ ∧ s.writer.inFlight = some (dumpInFlight 3) ∧
     s.writer.state = .programming ∧ s.writer.openMarkDropped = false ∧ s.queue = [] ∧ s.monitor.power = .main ∧
     s.epoch.state = .capture ∧ s.link.parked = none) := by decide +kernel

theorem test_meets_SectorEraseBlanksSector : (let s := flying watch ⟨.erase, 511 * 256, []⟩ .background
    s.port.inFlight = some ⟨⟨.erase, 511 * 256, []⟩, .background, some 3000000⟩ ∧ s.writer.state ≠ .selecting) ∧
    (let s := flying { watch with store := { watch.store with erasedRun := 256 } } ⟨.erase, 512, []⟩ .background
     s.runEndSector = 2 ∧ 2 ≠ s.store.tail / 256 ∧ s.store.tail % 256 + s.store.erasedRun < 130816) ∧
    130816 ≤ watch.store.tail % 256 + watch.store.erasedRun := by decide +kernel

/-- R14, R7 (log 20): the erased sector 2 joins the run with the blank sector 3 behind it; an erase of sector 3 first leaves the
run alone, as sector 2 stands between. -/
theorem test_erase_grows_the_run :
    (let s : State := { watch with store := { watch.store with erasedRun := 256 }, directory := watch.directory.set 3 .blank }
     nextIs (exec (.sectorEraseComplete true) (flying s ⟨.erase, 512, []⟩ .background))
       (fun t => decide (t.store.erasedRun = 256 + 512)) = true) ∧
    (let s : State := { watch with store := { watch.store with erasedRun := 256 } }
     nextIs (exec (.sectorEraseComplete true) (flying s ⟨.erase, 768, []⟩ .background))
       (fun t => decide (t.store.erasedRun = 256)) = true) := by decide +kernel

/-- The writer's last close write, and one with another to come; an occasion that is due and none. -/
theorem test_meets_StateByteMakesRecordValid_closing :
    (let s : State := flying { flushing with writer := { flushing.writer with
         state := .closing, inFlight := some (dumpInFlight 3), toClose := [.closeMark] } } ⟨.stateByte, 297, [0x3F]⟩ .writer
     s.port.inFlight = some ⟨⟨.stateByte, 297, [0x3F]⟩, .writer, some 5000⟩ ∧ s.writer.inFlight = some (dumpInFlight 3) ∧
     s.writer.state = .closing ∧
     nextIs (exec (.stateByteProgramComplete true) s)
       (fun t => decide (t.writer.state = .closing ∧ t.port.inFlight ≠ none)) = true) ∧
    watch.examDue = false ∧ ({ watch with examDue := true } : State).examDue = true := by decide +kernel

/-- The port of a part in CAPTURE with these claims waiting; the sector behind the erased run is damaged. -/
def claiming (w v : Option FlashOp) (lastService : Bool) : State := { tight .damaged with
  port := { (tight .damaged).port with waitWriter := w, waitService := v, lastService := lastService } }

theorem claiming_not_blocked (w v : Option FlashOp) (b : Bool) :
    ¬ ((∃ rest ended, (claiming w v b).link.server = .working (.format rest) ended) ∨ (claiming w v b).recovering = true ∨
      (claiming w v b).port.fault = true ∨ ∃ x, (claiming w v b).port.inFlight = some x ∧ x.claimant = .background) := by
  rintro (⟨_, _, h⟩ | h | h | ⟨x, h, _⟩) <;> cases h

/-- A claim of the writer and one of the service link, in turn and alone; background erase's candidate, eligible and not, and
the withdrawn claim; HOLDUP with and without the writer's claim; a run that ends a sector and the run over the whole log. -/
theorem test_meets_ArbiterGrantsOneClaim :
    (let mark : FlashOp := ⟨.pageProgram, 447, [0]⟩
     let read : FlashOp := ⟨.pageRead, 257, []⟩
     let s := claiming (some mark) (some read) true
     s.eraseCandidate.map (fun n => (⟨.erase, n * 256, []⟩ : FlashOp)) = some ⟨.erase, 512, []⟩ ∧
     s.port.inFlight = none ∧ s.recovering = false ∧ s.monitor.power = .main ∧ s.port.waitWriter = some mark ∧
     s.port.waitService = some read ∧ s.port.lastService = true ∧ (claiming (some mark) (some read) false).port.lastService = false ∧
     (claiming (some mark) none true).port.waitService = none ∧ (claiming none (some read) false).port.waitWriter = none ∧
     s.settlePort.port.inFlight.map (·.claimant) = some .writer ∧
     (claiming (some mark) (some read) false).settlePort.port.inFlight.map (·.claimant) = some .service ∧
     (claiming none none false).settlePort.port.inFlight.map (·.op) = some ⟨.erase, 512, []⟩) ∧
    (tight .unknown).eraseCandidate = none ∧ (watch.eraseCandidate = none ∧ watch.port.waitErase = none) ∧
    ((flying watch ⟨.erase, 512, []⟩ .background).port.inFlight = some ⟨⟨.erase, 512, []⟩, .background, some 3000000⟩) ∧
    (tightHoldup.monitor.power = .holdup ∧ tightHoldup.port.inFlight = none ∧ tightHoldup.port.waitWriter = none ∧
      ({ tightHoldup with port := { tightHoldup.port with waitWriter := some ⟨.stateByte, 300, [0x3F]⟩ } } : State).port.waitWriter
        = some ⟨.stateByte, 300, [0x3F]⟩) ∧
    ((447 + 65) % 256 = 0 ∧ (List.range 65).foldl (fun p _ => nextPage p) 447 = (tight .damaged).runEndSector * 256) ∧
    (130816 ≤ watch.store.tail % 256 + watch.store.erasedRun ∧ ¬ 130816 ≤ (tight .damaged).store.tail % 256 + 65) ∧
    ((tight .damaged).eligible 2 = true ∧ (tight .unknown).eligible 2 = false) := by decide +kernel

/-- The damaged sector behind the run, erased in SELECTING with no claim waiting and with a read of the service link waiting. -/
theorem test_meets_SectorEraseBlanksSector_selecting :
    (let s := flying (tight .damaged) ⟨.erase, 512, []⟩ .background
     s.port.inFlight = some ⟨⟨.erase, 2 * 256, []⟩, .background, some 3000000⟩ ∧ s.writer.state = .selecting ∧
     s.port.waitWriter = none ∧ s.port.waitService = none ∧ s.monitor.power = .main ∧ s.recovering = false ∧ s.runEndSector = 2 ∧
     nextIs (exec (.sectorEraseComplete true) s) (fun t => decide (t.store.erasedRun = 321)) = true) ∧
    (let s := flying (claiming none (some ⟨.pageRead, 257, []⟩) false) ⟨.erase, 512, []⟩ .background
     s.port.waitService = some ⟨.pageRead, 257, []⟩ ∧ s.monitor.power = .main ∧ s.recovering = false ∧
     nextIs (exec (.sectorEraseComplete true) s)
       (fun t => decide (t.port.inFlight.map (·.op) = some ⟨.pageRead, 257, []⟩)) = true) := by decide +kernel

/-- The read of frame page 0, of which bytes 10 to 255 are asked for, and one that goes on. -/
theorem test_meets_PageReadServesRequests : (let u : State := { idle with link := { idle.link with
      queue := [⟨.readRecord 5 10 246, 1, 0, 0⟩], server := .working (.readPages 131071 0 10 256 []) false } }
    let s : State := flying u ⟨.pageRead, 131071, []⟩ .service
    s.port.inFlight = some ⟨⟨.pageRead, 131071, []⟩, .service, none⟩ ∧
    s.link.server = .working (.readPages 131071 0 10 256 []) false ∧ s.link.queue ≠ [] ∧ s.examDue = false ∧
    256 ≤ 256 * (0 + 1) ∧ 256 * (0 + 1) < 257 ∧ s.port.waitWriter = none ∧ s.recovering = false ∧ s.monitor.power = .main) := by
  decide +kernel

/-- A part whose server works on this with the flash. -/
def serving (s : State) (job : Job) (req : Request) : State :=
  { s with link := { s.link with queue := [⟨req, 1, 0, 0⟩], server := .working job false } }

/-- Records 5 and 6, VALID and without payload, at pages 257 and 258. -/
def twoRecords : State := { marked (header5 0x3F 0 73 28 ++ cellsAt 66048 ([63, 5, 50, 223, 6, 0, 0, 0, 1] ++
    List.replicate 27 0 ++ [1, 0, 0, 0])) with
  store := { State.reset.store with
    tail := 259, oldest := some (5, 257), lastSeq := 6, records := [⟨5, 257, 0⟩, ⟨6, 258, 0⟩] } }

def header2 (seq check : Nat) : Header := ⟨0x3F, 5, seq, 1, 0, 0, check⟩

/-- This record's header at a page, as cells. -/
def recordAt (page : Nat) (state : Byte) (kind : RecKind) (seq n : Nat) : List Host.Cell :=
  cellsAt (page * 256) (headerBytes state (infoOf kind n) seq 1 1)

/-- A TORN record of 36 pages at 37/236, of which none in sector 38 was programmed, a CLOSE_MARK at 38/1 and a further record at
38/17, to which a second recovery steps from 37/236 (R22, Worked store). -/
def overshoot (records : List LogRecord) : State := { State.reset with
  flash := cellsAt (37 * 65536) (Mark.bytes ⟨1, 1, 236⟩) ++ recordAt (37 * 256 + 236) 0x1F .dump 5 9000
    ++ cellsAt (38 * 65536) (Mark.bytes ⟨2, 1, 1⟩) ++ recordAt (38 * 256 + 1) 0x3F .closeMark 6 30
    ++ recordAt (38 * 256 + 17) 0x3F .dump 7 0
  directory := (State.reset.directory.set 37 (.inUse ⟨1, 1, 236⟩ (some 5))).set 38 (.inUse ⟨2, 1, 1⟩ (some 6))
  store := { State.reset.store with
    tail := 38 * 256 + 18, oldest := some (5, 37 * 256 + 236), releasedEnd := some 4, lastSeq := 7, lastCheck := 77
    records := records } }

/-- The records that the first recovery and the writer after it have in the log, and those of the second recovery. -/
def firstRecords : List LogRecord := [⟨5, 37 * 256 + 236, 9000⟩, ⟨6, 38 * 256 + 1, 30⟩]
def secondRecords : List LogRecord := [⟨5, 37 * 256 + 236, 9000⟩, ⟨7, 38 * 256 + 17, 0⟩]

/-- R7, R16, R17: the pages that the TORN record never reached hold no record; the next record is the CLOSE_MARK of the next
sector, which keeps the last check when the TORN record's sector is erased, while no RELEASED record is left. -/
theorem test_next_record_after_torn : (overshoot firstRecords).oldestAfter 5 = some (6, 38 * 256 + 1) ∧
    (overshoot firstRecords).keptPresent = true ∧
    (let t := ((overshoot firstRecords).eraseSector 37).eraseDone 37
     t.store.lastCheck = 77 ∧ t.store.releasedEnd = none ∧ t.keptPresent = true ∧
     t.store.records = [⟨6, 38 * 256 + 1, 30⟩]) := by decide +kernel

/-- R7, R8, R16, R17, R22: a second recovery steps from the TORN record to 38/17; the record there is the next one, the nearest
earlier one of what follows, and keeps the last check when sector 37 is erased. -/
theorem test_next_record_after_second_recovery :
    (let s := runOf (overshoot []) |>.walkLog none
     s.newestFirst.reverse.map (fun a => (a.header.seq, a.page)) = [(5, 37 * 256 + 236), (7, 38 * 256 + 17)]) ∧
    (let s := overshoot secondRecords
     s.oldestAfter 5 = some (7, 38 * 256 + 17) ∧ s.oldestAfter 7 = none ∧ s.keptBefore 8 = some ⟨7, 38 * 256 + 17, 0⟩ ∧
     (let t := (s.eraseSector 37).eraseDone 37
      t.store.lastCheck = 77 ∧ t.keptPresent = true)) := by decide +kernel

/-- A record VALID, and one TORN, present; none RELEASED, and the records after an erase. -/
theorem test_meets_SectorEraseBlanksSector_present :
    twoRecords.keptPresent = true ∧ twoRecords.releasedPresent = false ∧
    (⟨5, 257, 0⟩ : LogRecord) ∈ twoRecords.store.records ∧ RecState.read (twoRecords.flashByte (257 * 256)) = .valid := by
  decide +kernel

/-- The next record directly behind, and behind records that are not past the one asked after; none left. -/
theorem test_meets_ServiceOperationsGoOn_next : twoRecords.store.records = [⟨5, 257, 0⟩] ++ ⟨6, 258, 0⟩ :: [] ∧
    (¬ 5 < 5 ∧ 5 < 6 ∧ RecState.read (twoRecords.flashByte (258 * 256)) = .valid) ∧
    (∀ r ∈ twoRecords.store.records, ¬ 6 < r.seq) ∧
    (overshoot firstRecords).store.records = [⟨5, 37 * 256 + 236, 9000⟩] ++ ⟨6, 38 * 256 + 1, 30⟩ :: [] ∧
    RecState.read ((overshoot firstRecords).flashByte ((37 * 256 + 236) * 256)) = .torn := by decide +kernel

/-- A part of two records whose server works on this, with its read of page `p` in flight. -/
def reading (job : Job) (p : Nat) (req : Request) : State :=
  flying (serving { twoRecords with recovering := false } job req) ⟨.pageRead, p, []⟩ .service

/-- Such a state meets what every clause on a read asks of the port, the server and the queue. -/
theorem reading_meets (job : Job) (p : Nat) (req : Request) :
    (reading job p req).port.inFlight = some ⟨⟨.pageRead, p, []⟩, .service, none⟩ ∧
    (reading job p req).link.server = .working job false ∧ (reading job p req).link.queue = [⟨req, 1, 0, 0⟩] ∧
    (reading job p req).examDue = false := ⟨rfl, rfl, rfl, rfl⟩

/-- Lookup: the record asked for, one behind it with and without a further page to read, one past it, an ERASED page and one
whose check fails; a BEGUN record; an offset within the frame and at its end. -/
theorem test_meets_PageReadServesRequests_lookup :
    (let s := reading (.readLookup 5 0 100 257) 257 (.readRecord 5 0 100)
     (s.page 257).headD 0xFF ≠ 0xFF ∧ Header.parse (s.page 257) = some (header2 5 1) ∧ 5 = (header2 5 1).seq ∧ 4 < (header2 5 1).seq ∧
     ¬ 48 + 0 ≤ 47 ∧ 48 + 0 ≤ 48 ∧ (s.page 300).headD 0xFF = 0xFF ∧ (header2 5 1).state ≠ 0x7F) ∧
    (let s := reading (.verifyLookup 6 257) 257 (.verify 6)
     (header2 5 1).seq < 6 ∧ stepPages 1 257 (s.inUseAfter 1) = .inl (258, s.inUseAfter 1) ∧ 258 ≠ s.store.tail ∧
     stepPages 1 258 (s.inUseAfter 1) = .inl (259, s.inUseAfter 1) ∧ 259 = s.store.tail) ∧
    (let page := (marked (header5 0x3F 0 1 1)).page 257
     page.headD 0xFF ≠ 0xFF ∧ Header.parse page = none) ∧
    (Header.parse ((headed 0x7F).page 257)).map Header.state = some 0x7F := by decide +kernel

/-- A listing at its first header, with the count reached and not, and at a page whose header fails. -/
theorem test_meets_PageReadServesRequests_list :
    (let s := reading (.list 5 1 257 none [] false none) 257 (.listRecords 5 1)
     (s.page 257).headD 0xFF ≠ 0xFF ∧ Header.parse (s.page 257) = some (header2 5 1) ∧ 5 ≤ (header2 5 1).seq ∧ ¬ 6 ≤ (header2 5 1).seq ∧
     firstRecordPage (s.inUseAfter 1) = none ∧
     nextIs (exec .pageReadComplete s) (fun t => decide (t.link.tx.map (fun r => (r.status, r.body.length)) = [(.ok, 58)])) = true) ∧
    (let s := reading (.list 5 2 257 none [] false none) 257 (.listRecords 5 2)
     nextIs (exec .pageReadComplete s) (fun t => decide (t.port.inFlight.map (·.op.page) = some 258)) = true) ∧
    (let s := reading (.list 0 2 258 (some 6) [] false none) 258 (.listRecords 0 2)
     (Header.parse (s.page 258)).map Header.seq = some 6 ∧ 6 ≤ 6) := by decide +kernel

theorem test_meets_PageReadServesRequests_record : twoRecords.RecordAt none 257 (header2 5 1) ∧
    ∀ h, ¬ twoRecords.RecordAt (some 6) 258 h :=
  ⟨⟨by decide +kernel, by decide +kernel, fun _ h => (by cases h)⟩, fun h x => absurd (x.2.2 6 rfl) (by
    have parsed : (Header.parse (twoRecords.page 258)).map Header.seq = some 6 := by decide +kernel
    rw [x.2.1] at parsed
    exact Nat.not_lt.2 (Nat.le_of_eq (Option.some.inj parsed)))⟩

/-- VERIFY of record 6, which has no trailer: its one page read, before which record 5 stands in the list, and the trailer of 5,
blank too, whose check is not the one that 6 was seeded with; VERIFY of record 5, which has no earlier one; a request of two
pages and a trailer in two. -/
theorem test_meets_PageReadServesRequests_verify :
    (let v : Verified := ⟨6, 0x3F, 1, 4294967295, false, 1⟩
     let s := reading (.verifyPages 258 1 []) 258 (.verify 6)
     s.store.records = [] ++ ⟨5, 257, 0⟩ :: [⟨6, 258, 0⟩] ∧ 5 < v.seq ∧ v.seq ≤ 6 ∧
     RecState.read (s.flashByte (257 * 256)) = .valid ∧
     nextIs (exec .pageReadComplete s)
       (fun t => decide (t.link.server = .working (.verifyTrailer v 257 1 40 []) false)) = true ∧
     (let u := reading (.verifyTrailer v 257 1 40 []) 257 (.verify 6)
      fieldOf (u.page 257) 40 4 ≠ v.prevCheck ∧
      nextIs (exec .pageReadComplete u) (fun t => decide ((t.link.tx.getLast?.bind (·.body.getLast?)) = some 2)) = true)) ∧
    (let s := reading (.verifyPages 257 1 []) 257 (.verify 5)
     (∀ r ∈ s.store.records, 5 ≤ r.seq) ∧
     nextIs (exec .pageReadComplete s) (fun t => decide ((t.link.tx.getLast?.bind (·.body.getLast?)) = some 3)) = true) ∧
    1 < 2 ∧ (40 + 215) % 256 = 255 := by decide +kernel

/-- A request that MAIN_LOST has ended while its read was in flight. -/
theorem test_meets_PageReadServesRequests_ended :
    (let s : State := { reading (.readLookup 6 0 1 257) 257 (.readRecord 6 0 1) with link :=
        { (reading (.readLookup 6 0 1 257) 257 (.readRecord 6 0 1)).link with
          server := .working (.readLookup 6 0 1 257) true } }
     s.link.server = .working (.readLookup 6 0 1 257) true ∧
     nextIs (exec .pageReadComplete s) (fun t => decide (t.link.tx.map (·.status) = [.refusedState])) = true) := by decide +kernel

/-- READ-RECORD, ended by MAIN_LOST while its page was in flight: with a further page to read, and with its last. -/
theorem test_meets_PageReadServesRequests_pages_ended :
    (let ends (stop : Nat) : State := { reading (.readPages 257 0 10 stop []) 257 (.readRecord 5 10 247) with link :=
        { (reading (.readPages 257 0 10 stop []) 257 (.readRecord 5 10 247)).link with
          server := .working (.readPages 257 0 10 stop []) true } }
     let statusOf (s : State) (x : Status) : Bool :=
       nextIs (exec .pageReadComplete s) (fun t => decide (t.link.tx.map (·.status) = [x]))
     (ends 257).link.server = .working (.readPages 257 0 10 257 []) true ∧ 256 * (0 + 1) < 257 ∧
     statusOf (ends 257) .refusedState = true ∧ 256 ≤ 256 * (0 + 1) ∧ statusOf (ends 256) .ok = true) := by decide +kernel

/-- The last mark asked for, and one that goes on to the next record; the last erase of a FORMAT and one before it; the erase, a
page and the last page of a SAVE-CONFIG. -/
theorem test_meets_ServiceOperationsGoOn :
    (let s := flying (serving twoRecords (.release 5 0) (.release 5 5)) ⟨.stateByte, 257, [0x0F]⟩ .service
     s.port.inFlight = some ⟨⟨.stateByte, 257, [0x0F]⟩, .service, some 5000⟩ ∧
     s.link.server = .working (.release 5 0) false ∧ s.link.queue = [⟨.release 5 5, 1, 0, 0⟩] ∧
     s.store.oldest = some (5, 257) ∧ s.examDue = false ∧ s.oldestAfter 5 = some (6, 258)) ∧
    (let s := flying (serving watch (.format [511]) .format) ⟨.erase, 510 * 256, []⟩ .service
     s.port.inFlight = some ⟨⟨.erase, 510 * 256, []⟩, .service, some 3000000⟩ ∧
     s.link.server = .working (.format [511]) false ∧ s.writer.state ≠ .selecting) ∧
    (let s := flying (serving watch (.save [] 0) .saveConfig) ⟨.erase, 0, []⟩ .service
     s.port.inFlight = some ⟨⟨.erase, 0, []⟩, .service, some 3000000⟩ ∧ s.link.server = .working (.save [] 0) false) ∧
    (let s := flying (serving watch (.save [] 6) .saveConfig) ⟨.pageProgram, 5, [0]⟩ .service
     s.port.inFlight = some ⟨⟨.pageProgram, 6 - 1, [0]⟩, .service, some 5000⟩ ∧
     s.link.server = .working (.save [] 6) false ∧ s.link.queue = [⟨.saveConfig, 1, 0, 0⟩] ∧ s.examDue = false) := by
  decide +kernel

/-- The last page of the device with each way to fail, and the late report. -/
theorem test_meets_FlashFaultEntersFault : (let s := flying (programming 300 1) ⟨.pageProgram, 131071, [1]⟩ .writer
    s.port.inFlight = some ⟨⟨.pageProgram, 131071, [1]⟩, .writer, some 5000⟩ ∧ s.port.waitService = none ∧
    s.port.fault = false ∧ s.writer.inFlight ≠ none ∧ s.epoch.state = .capture) ∧
    (flying watch ⟨.erase, 131071, []⟩ .background).port.inFlight = some ⟨⟨.erase, 131071, []⟩, .background, some 3000000⟩ ∧
    (let s : State := { idle with port := { idle.port with fault := true, lateReport := some .erase } }
     s.port.inFlight = none ∧ s.port.lateReport = some .erase ∧ s.port.lateReport ≠ some .pageProgram) := by decide +kernel

/-- A fault of the service link's operation, and of another while a program of the service link waits, and a read; an open
epoch with a record queued; and each kind of request in service. -/
theorem test_meets_FlashFaultEntersFault_service :
    (let s := flying (serving watch (.release 5 0) (.release 5 5)) ⟨.stateByte, 257, [0x0F]⟩ .service
     s.port.inFlight = some ⟨⟨.stateByte, 257, [0x0F]⟩, .service, some 5000⟩ ∧ s.port.waitService = none ∧
     s.port.fault = false ∧ s.link.server = .working (.release 5 0) false ∧ s.link.queue = [⟨.release 5 5, 1, 0, 0⟩]) ∧
    (let s : State := { flying (serving watch (.format [2]) .format) ⟨.erase, 512, []⟩ .background with
       port := { (flying watch ⟨.erase, 512, []⟩ .background).port with waitService := some ⟨.erase, 768, []⟩ } }
     s.port.waitService = some ⟨.erase, 768, []⟩ ∧ OpKind.erase ≠ .pageRead ∧ s.link.server = .working (.format [2]) false) ∧
    (let s := serving watch (.save [] 1) .saveConfig
     s.link.server = .working (.save [] 1) false ∧ s.link.queue = [⟨.saveConfig, 1, 0, 0⟩]) ∧
    (let s : State := { capture with queue := [entryOf 2 [7]] }
     s.epoch.state = .capture ∧ s.writer.inFlight = none ∧ s.forceClose.epoch.state = .closed ∧ s.forceClose.queue = []) := by
  decide +kernel


/-- The values at the ends of the header's and the mark's fields; a page whose check passes and one whose check fails. -/
theorem test_meets_RecordsAreLaidOut : (4294967295 < 2 ^ 32 ∧ 65535 < 2 ^ 16 ∧ 281474976710655 < 2 ^ 48 ∧ 255 < 2 ^ 8) ∧
    (headerBytes 0x7F (dumpInFlight 0).info 4294967295 65535 4294967295).length = 40 ∧
    (let good := twoRecords.page 257
     let bad := (marked (header5 0x3F 0 1 1)).page 257
     40 ≤ good.length ∧ (good.drop 2).take 2 = crcBytes (0xFF :: ((good.drop 1).take 1 ++ (good.drop 4).take 36)) ∧
     40 ≤ bad.length ∧ (bad.drop 2).take 2 ≠ crcBytes (0xFF :: ((bad.drop 1).take 1 ++ (bad.drop 4).take 36))) ∧
    (let page := (marked []).page 256
     page.getD 0 0 = 0x7F ∧ (page.drop 8).take 2 = crcBytes (page.take 8) ∧ ((marked []).page 257).getD 0 0 ≠ 0x7F) := by
  decide +kernel

theorem test_meets_EntriesAndPayloadsAreLaidOut : (let e : HEntry := ⟨1, 2, .lane 15 ⟨63, 1023⟩, 3, List.replicate 24 0⟩
    e.data.length ≤ 24 ∧ (∀ x ∈ [e, e], x.data.length ≤ 24) ∧ [e, e][1]? = some e) ∧
    ([(⟨.agedOut, none, none, some 511, 0, 0⟩ : Anomaly)])[0]? = some ⟨.agedOut, none, none, some 511, 0, 0⟩ := by decide

/-- The default settings fit, and a block limit of 256 with them. -/
theorem test_meets_ImageRoundTrip : Settings.default.Fits := by
  unfold Settings.Fits; decide +kernel

/-- A flash that holds an image. -/
theorem test_meets_ImageRoundTrip_flash : (let image := (imageBytes 7 Settings.default).take 300
    let flash := Memory.store flashBlank [] 0 image
    decide (Memory.load flashBlank flash 0 300 = image)) = true := by decide +kernel

/-- A scan in progress in MAIN and in HOLDUP, with the comparator one scan short of its count, in each epoch state. -/
theorem test_meets_ScanStoresCodesAndCompares :
    (let s : State := { watch with monitor := { watch.monitor with run := 3 } }
     s.monitor.scanning = true ∧ s.writer.state ≠ .selecting ∧ s.monitor.power = .main ∧ 2799 < s.monitor.settings.failThreshold ∧
     ¬ 2800 < s.monitor.settings.failThreshold ∧ s.monitor.settings.count ≤ s.monitor.run + 1 ∧ s.link.server = .free ∧
     s.link.parked = none ∧ ¬ s.monitor.settings.count ≤ watch.monitor.run + 1) ∧
    idle.epoch.state = .closed ∧
    (let s : State := { capture with epoch := { capture.epoch with settings :=
        { capture.epoch.settings with holdupGrace := 1, powerOpens := false } } }
     s.epoch.state = .capture ∧ duration s.epoch.settings.holdupGrace * 1000 ≠ 0) ∧
    flushing.epoch.graceTimer = some 5 ∧ holdup.monitor.power = .holdup ∧
    holdup.monitor.settings.restoreThreshold ≤ 3100 ∧ ¬ holdup.monitor.settings.restoreThreshold ≤ 3099 ∧
    (let s : State := { watch with monitor := { watch.monitor with scanning := false, scanTimer := some 1 } }
     s.monitor.scanTimer ≠ none ∧ s.monitor.scanning = false) := by decide +kernel

/-- MAIN_LOST with the server working, with and without a claim that waits, on each kind of request; and the epoch controller
in each state, with and without a grace. -/
theorem test_meets_ScanStoresCodesAndCompares_loss :
    (let s : State := { serving watch (.release 5 2) (.release 5 5) with
       port := { watch.port with waitService := some ⟨.stateByte, 257, [0x0F]⟩ } }
     s.port.waitService = some ⟨.stateByte, 257, [0x0F]⟩ ∧ s.link.queue = [⟨.release 5 5, 1, 0, 0⟩] ∧
     s.link.server = .working (.release 5 2) false) ∧
    (serving watch (.format [3]) .format).port.waitService = none ∧ (∀ upTo marked, Job.save [] 0 ≠ .release upTo marked) ∧
    (∀ sectors, Job.save [] 0 ≠ .format sectors) ∧ (∀ job ended, watch.link.server ≠ .working job ended) ∧
    (watch.epoch.state = .watch ∧ watch.epoch.settings.powerOpens = true) ∧
    (capture.epoch.state = .capture ∧ duration capture.epoch.settings.holdupGrace * 1000 = 0) ∧
    (flushing.epoch.state = .flush ∧ flushing.epoch.graceTimer = some 5) ∧ watch.epoch.graceTimer = none ∧
    duration 1 * 1000 ≠ 0 :=
  ⟨by decide +kernel, by decide +kernel, fun _ _ h => (by cases h), fun _ h => (by cases h),
    fun _ _ h => (by cases h), by decide +kernel⟩

theorem test_meets_VoltageFollowsCode : 0 < 1 ∧ voltage 4095 1 < 1 ∧ watch.monitor.codeUsed ≤ 4095 := by decide +kernel

theorem test_meets_EnergyAndAdmissionAnswer : 3300 ≤ BudgetSettings.default.floor ∧ BudgetSettings.default.floor < 3301 ∧
    1 ≤ (Budget.mk BudgetSettings.default 0 1 false).outstanding := by decide

theorem test_meets_OpenCommandOpensOrRefuses : (watch.link.queue = [] ∧ watch.link.server = .free) ∧
    State.reset.recovering = true ∧ (State.reset.link.queue = [] ∧ State.reset.link.server = .free) ∧
    capture.epoch.state = .capture ∧ flushing.epoch.state = .flush ∧ idle.epoch.state = .closed ∧
    (watch.epoch.state = .watch ∧ watch.store.low = false ∧ watch.writer.state ≠ .fault ∧ watch.link.parked = none ∧
      watch.queue = [] ∧ watch.store.exhausted = false ∧ 2 ≤ watch.store.erasedRun) ∧
    ({ watch with store := idle.store } : State).store.low = true := by decide +kernel

/-- R185 (log 15): a parked WAIT for the end of WATCH is answered before OPEN's own reply, one for the end of CLOSED before
REARM's, and one for an anomaly before the reply of an OPEN that is refused. -/
theorem test_wait_is_answered_before_the_request :
    (let parked (s : State) (cond : WaitCond) : State := { s with link := { s.link with parked := some ⟨9, cond, none⟩ } }
     let replies (o : Host.Outcome State Fault Refusal) (status : Status) : Bool :=
       nextIs o (fun t => decide (t.link.tx.map (fun r => (r.tag, r.status)) = [(9, .ok), (1, status)] ∧ t.link.parked = none))
     replies (exec (.openEpoch 1) (parked watch (.epochChange .watch))) .ok = true ∧
     replies (exec (.rearm 1) (parked { idle with store := watch.store } (.epochChange .closed))) .ok = true ∧
     replies (exec (.openEpoch 1) (parked { watch with store := idle.store, anomalies := Anomalies.start } .anomalyPresent))
       .refusedState = true) := by decide +kernel

/-- Each timer running, in CAPTURE with a grace and with none, in WATCH, and stopped; the grace in FLUSH. -/
theorem test_meets_EpochTimersAndFlushRequest : (capture.epoch.windowTimer ≠ none ∧ capture.epoch.quietTimer ≠ none ∧
      capture.epoch.state = .capture ∧ duration capture.epoch.settings.grace ≠ 0 ∧ capture.examDue = false ∧
      capture.link.parked = none ∧ capture.writer.state ≠ .selecting ∧ capture.epoch.streamsClosed = false) ∧
    duration ({ capture with monitor := holdup.monitor } : State).epoch.settings.holdupGrace = 0 ∧
    (watch.epoch.windowTimer = none ∧ watch.epoch.graceTimer = none) ∧
    ({ watch with epoch := { watch.epoch with graceTimer := some 1, windowTimer := some 1 } } : State).epoch.state = .watch ∧
    (flushing.epoch.graceTimer ≠ none ∧ flushing.epoch.state = .flush ∧ flushing.epoch.streamsClosed = false ∧
      flushing.writer.state ≠ .selecting ∧ flushing.reassembly.flushed + 512 ≤ 4294967295) := by decide +kernel

theorem test_meets_EpochTimersAndFlushRequest_request : ((capture.link.queue = [] ∧ capture.link.server = .free) ∧ capture.recovering = false) ∧
    (0 ≠ 1 ∧ 3 ≠ 2) ∧ watch.epoch.state = .watch ∧ idle.epoch.state = .closed ∧ flushing.epoch.state = .flush ∧
    (capture.epoch.state = .capture ∧ duration capture.epoch.settings.grace ≠ 0 ∧ capture.examDue = false ∧
      capture.link.parked = none ∧ capture.writer.state ≠ .selecting) := by decide +kernel

/-- The close of all streams still to be taken and taken already, and a stream in each state. -/
theorem test_meets_EpochTimersAndFlushRequest_close : flushing.epoch.streamsClosed = false ∧
    flushing.reassembly.flushed + 512 ≤ 4294967295 ∧
    ({ flushing with epoch := { flushing.epoch with streamsClosed := true } } : State).epoch.streamsClosed = true ∧
    (let s := onStream capture .assembling (recordOf 4 300 [10, 11])
     (s.stream 9).state = .assembling ∧ (s.stream 9).record = recordOf 4 300 [10, 11]) ∧
    ((onStream capture .discarding InProgress.idle).stream 9).state = .discarding ∧ (capture.stream 9).state = .idle := by
  decide +kernel

/-- An examination that enters CLOSING, with the OPEN_MARK written and dropped; a close write of one page that just fits, that
does not, and under EXHAUSTED; and the policies, with and without what stands against a rearm. -/
theorem test_meets_EpochClosesAndAppliesPending :
    (let s : State := { flushing with
       writer := { flushing.writer with state := .selecting }, epoch := { flushing.epoch with streamsClosed := true } }
     s.writer.state = .selecting ∧ s.queue = [] ∧ s.epoch.state = .flush ∧ s.epoch.streamsClosed = true ∧
     s.monitor.power = .main ∧ s.writer.openMarkDropped = false) ∧
    ({ flushing with writer := { flushing.writer with openMarkDropped := true } } : State).writer.openMarkDropped = true ∧
    ((tight .unknown).spaceTest (infoOf .dump 209) = .refused ∧ (tight .unknown).spaceTest (infoOf .dump 4) ≠ .refused) ∧
    (let s : State := { flushing with store := { flushing.store with tail := 300, erasedRun := 1 } }
     s.store.exhausted = false ∧ pageCount s.store.tail (s.closePayload .closeMark).length ≤ s.store.erasedRun) ∧
    pageCount 256 30 = 2 ∧ ({ flushing with store := { flushing.store with exhausted := true } } : State).store.exhausted = true ∧
    (flushing.epoch.settings.autoRearm = true ∧ flushing.store.low = false ∧ flushing.monitor.power = .main) ∧
    idle.store.low = true ∧ holdup.monitor.power = .holdup := by decide +kernel

theorem test_meets_RearmCommandRearms : ((idle.link.queue = [] ∧ idle.link.server = .free) ∧ idle.recovering = false) ∧
    watch.epoch.state = .watch ∧ capture.epoch.state = .capture ∧ flushing.epoch.state = .flush ∧
    (idle.epoch.state = .closed ∧ idle.store.low = true) ∧
    (let s : State := { idle with store := watch.store }
     s.epoch.state = .closed ∧ s.store.low = false ∧ s.writer.state ≠ .fault ∧ s.monitor.power = .main ∧
     s.link.parked = none ∧ s.history.ring.length + s.history.list.length ≤ 1024) := by decide +kernel

/-- The input falls with filter code 0, rises back, and starts a run; a run that has completed; prescale 1 and 2. -/
theorem test_meets_TriggerInputIsFilteredAndFires :
    (∀ l : TriggerLine, (onLine watch l).line 2 = l) ∧ watch.examDue = false ∧ watch.link.parked = none ∧
    (let l := lineOf .event 0 1 0 none
     false ≠ l.input ∧ false ≠ l.level ∧ filterTime l.settings.filterCode = 0 ∧ false = l.settings.activeHigh ∧
     l.settings.prescale ≤ l.count + 1) ∧
    (let l := lineOf .openEpoch 7 2 0 (some (false, 1000))
     l.run = some (false, 1000) ∧ l.count + 1 < l.settings.prescale ∧ true = l.level ∧ filterTime l.settings.filterCode ≠ 0) ∧
    (lineOf .flush 7 8 7 (some (false, 1000))).settings.prescale ≤ 7 + 1 ∧ (lineOf .off 0 1 0 none).settings.mode = .off ∧
    capture.epoch.state = .capture ∧ idle.epoch.state = .closed ∧
    (watch.epoch.state = .watch ∧ watch.queue = [] ∧ watch.store.low = false ∧ watch.writer.state ≠ .fault ∧
      idle.store.low = true) ∧ duration capture.epoch.settings.holdupGrace = 0 ∧ duration capture.epoch.settings.grace ≠ 0 :=
  ⟨fun _ => by simp [onLine], by decide +kernel⟩

theorem test_meets_HistoryPlacesLogsAndReads : (idle.LinkFree ∧ idle.recovering = false) ∧
    (let e : HEntry := ⟨1, 0, .service, 0, []⟩
     (List.replicate 1023 e).length < 1024 ∧ 1024 ≤ (List.replicate 1024 e).length ∧ (List.replicate 255 e).length < 256 ∧
     256 ≤ (List.replicate 256 e).length) ∧ ¬ 24 < (List.replicate 24 (0 : Byte)).length ∧
    24 < (List.replicate 25 (0 : Byte)).length ∧ 16 < 17 ∧ 16 ≤ 16 :=
  ⟨⟨⟨by decide +kernel, by decide +kernel⟩, by decide +kernel⟩, by decide +kernel⟩

/-- A queue with one entry, an empty one with a WAIT for it parked, and 64 entries. -/
theorem test_meets_AnomalyQueuePostsAndTakes : (idle.LinkFree ∧ idle.recovering = false) ∧
    (idle.anomalies.entries.length < 64 ∧ idle.anomalies.entries ≠ []) ∧
    (let s : State := { idle with
       anomalies := Anomalies.start, link := { idle.link with parked := some ⟨1, .anomalyPresent, none⟩ } }
     s.anomalies.entries = [] ∧ s.link.parked = some ⟨1, .anomalyPresent, none⟩) ∧
    64 ≤ (List.replicate 64 (⟨.agedOut, none, none, none, 0, 0⟩ : Anomaly)).length ∧ 32 < 33 ∧ 32 ≤ 32 :=
  ⟨⟨⟨by decide +kernel, by decide +kernel⟩, by decide +kernel⟩, by decide +kernel⟩

/-- A WAIT for another condition parked, for the post that ends an empty queue and for the changes that do not concern it. -/
theorem test_meets_AnomalyQueuePostsAndTakes_other : Anomalies.start.entries.length < 64 ∧
    (∀ tag timer, some (⟨1, .record 0, none⟩ : Parked) ≠ some ⟨tag, .anomalyPresent, timer⟩) ∧
    (∀ t a timer, some (⟨1, .epochChange .watch, none⟩ : Parked) ≠ some ⟨t, .record a, timer⟩) ∧
    (∀ t x timer, some (⟨1, .record 0, none⟩ : Parked) ≠ some ⟨t, .epochChange x, timer⟩) ∧ idle.link.parked = none :=
  ⟨by decide, fun _ _ h => (by cases h), fun _ _ _ h => (by cases h), fun _ _ _ h => (by cases h), by decide +kernel⟩

/-- A full queue, a queue with one place, and a free server during recovery, in HOLDUP and otherwise. -/
theorem test_meets_RequestMeetsQueueAndCommonTests : State.reset.LinkFree ∧ holdup.LinkFree ∧
    (Instr.status 1).request = some (.status, 1) ∧ (Instr.unknownKindRequest 1 23).request = some (.unknown 23, 1) ∧
    (Instr.unknownKindRequest 1 1).request = some (.malformed 1, 1) ∧
    (Instr.wait 1 3 1 0).request = some (.malformed 0x15, 1) ∧ (Instr.format 1).request = some (.format, 1) ∧
    4 ≤ (List.replicate 4 (⟨.status, 0, 0, 0⟩ : Queued)).length ∧ (List.replicate 3 (⟨.status, 0, 0, 0⟩ : Queued)).length < 4 ∧
    Server.replying ≠ .free ∧ State.reset.recovering = true ∧ Request.status ≠ .identify ∧ holdup.recovering = false ∧
    holdup.monitor.power = .holdup :=
  ⟨⟨by decide +kernel, by decide +kernel⟩, ⟨by decide +kernel, by decide +kernel⟩, by decide +kernel⟩

theorem test_meets_FrameSpellsRequest : (Instr.readRecord 1 4294967295 4294967295 65535).wellFormed = true ∧
    (Instr.readRecord 1 4294967295 4294967295 65535).request = some (.readRecord 4294967295 4294967295 65535, 1) ∧
    (Instr.readRecord 1 4294967295 4294967295 65535).frame = some (0x0D, List.replicate 10 0xFF) := by decide +kernel

/-- Every state of the receiver, the 1,031st byte, the length and CRC checks, and a whole frame. -/
theorem test_meets_ServiceLineReceivesFrames : idle.link.rx = .hunting ∧ (gathered []).link.rx = .gathering ∧
    ({ gathered [] with link := { (gathered []).link with escape := true } } : State).link.escape = true ∧
    (List.replicate 1030 (0 : Byte)).length = 1030 ∧ (gathered (List.replicate 5 0)).link.gathered.length < 6 ∧
    crc16 (List.replicate 6 0) ≠ 0 ∧ (List.replicate 6 (0 : Byte)).length = 0 + 6 ∧
    (gathered (requestLine 0x0A 5 [1])).link.gathered = (let front : List Byte := BitVec.ofNat 8 0x0A :: 5 :: (le 2 1 ++ [1])
      front ++ crcBytes front) ∧ (Instr.flush 5 1).frame = some (0x0A, [1]) ∧ (Instr.flush 5 1).wellFormed = true ∧
    (Instr.flush 5 1).request = some (.flush false, 5) := by decide +kernel

theorem test_meets_IdentifyAndStatusReport : State.reset.LinkFree ∧ (watch.LinkFree ∧ watch.recovering = false) :=
  ⟨⟨by decide +kernel, by decide +kernel⟩, ⟨by decide +kernel, by decide +kernel⟩, by decide +kernel⟩

/-- An anchor, none, and the two ends of the microseconds' range; a present time of 2^64 seconds less one microsecond. -/
theorem test_meets_TimeRequestsKeepAnchor : (idle.LinkFree ∧ idle.recovering = false) ∧ idle.anchor = none ∧
    999999 < 1000000 ∧ 999999 ≤ 999999 ∧
    (let s : State := { idle with anchor := some ⟨18446744073709551615, 999999, 0, 0⟩ }
     s.anchor = some ⟨18446744073709551615, 999999, 0, 0⟩ ∧
     ((18446744073709551615999999 : Nat) : Int) = ((s.wrap : Int) - (0 : Nat)) * 2 ^ 48 + s.tick - (0 : Nat)
       + (18446744073709551615 : Nat) * 1000000 + (999999 : Nat) ∧
     18446744073709551615999999 < 2 ^ 64 * 1000000) :=
  ⟨⟨⟨by decide +kernel, by decide +kernel⟩, by decide +kernel⟩, by decide +kernel⟩

/-- R139, R173: a SET-TIME and a CLEAR taken from the queue at another tick than that of their arrival, and one taken when the
reply before it has been sent. -/
theorem test_meets_TimeRequestsKeepAnchor_queued :
    (let q : Queued := ⟨.setTime 5 999999, 2, 7, 3⟩
     let s : State := { idle with tick := 900, link := { idle.link with queue := [q] } }
     s.link.queue = q :: [] ∧ s.recovering = false ∧ q.tick ≠ s.tick ∧ (s.serve q).anchor = some ⟨5, 999999, 7, 3⟩ ∧
     (⟨.clearTime, 2, 7, 3⟩ : Queued).req = .clearTime ∧
     (let u : State := { s with link := { s.link with
        tx := [⟨0x01, 1, .ok, [], true, false⟩], queue := [⟨.identify, 1, 0, 0⟩, q], server := .replying } }
      u.link.tx = ⟨0x01, 1, .ok, [], true, false⟩ :: [] ∧ u.link.queue = ⟨.identify, 1, 0, 0⟩ :: q :: [] ∧
      u.recovering = false ∧
      nextIs (exec (.replySent false false) u)
        (fun t => decide (t.anchor = some ⟨5, 999999, 7, 3⟩ ∧ t.tick = 900)) = true)) := by decide +kernel

theorem test_meets_ReadConfigReportsTargets : (watch.LinkFree ∧ watch.recovering = false) ∧ 15 < 16 ∧ 16 ≠ 65535 ∧ 5 < 6 ∧
    63 < 64 ∧ (1 ≤ 64 ∧ 64 ≤ 64 ∧ 448 + 64 ≤ 512) ∧ 512 < 449 + 64 :=
  ⟨⟨⟨by decide +kernel, by decide +kernel⟩, by decide +kernel⟩, by decide⟩

/-- The states that hold writes and those that do not; the ranges at their ends; the defaults with entry 63 not valid, so that
another entry may take its streams; and a range of 16 from 8 on, which overlaps entry 2 at its last stream, 23. -/
theorem test_meets_ConfigurePendingCopies : (capture.LinkFree ∧ capture.recovering = false) ∧
    (watch.LinkFree ∧ watch.recovering = false) ∧ capture.epoch.state = .capture ∧ watch.epoch.state = .watch ∧
    (¬ 63 < 63 ∧ ¬ 9 < 9 ∧ ¬ 511 < 511 ∧ ¬ 512 < 511 + 2 ^ 0 ∧ 512 < 504 + 2 ^ 4) ∧
    (watch.domainEntry 62).active = ⟨true, false, 496, 3⟩ ∧ ¬ (511 < 511 ∨ min 600 511 < 511 ∨ 1 = 0 ∨ 255 < 1) ∧
    ¬ (1 = 0 ∨ 512 < 511 + 1 ∨ 1 < 1 ∨ 255 < 255) ∧
    ((watch.domainEntry 2).pending.getD (watch.domainEntry 2).active = ⟨true, false, 16, 3⟩ ∧
      (8 ≤ 23 ∧ 23 < 8 + 2 ^ 4 ∧ 16 ≤ 23 ∧ 23 < 16 + 2 ^ 3)) ∧
    ({ watch with primary := ⟨⟨true, false, 0, 3⟩, none⟩ } : State).primary.active.enabled = true :=
  ⟨⟨⟨by decide +kernel, by decide +kernel⟩, by decide +kernel⟩, ⟨⟨by decide +kernel, by decide +kernel⟩, by decide +kernel⟩,
    by decide +kernel⟩

theorem test_meets_ConfigureAtOnce : (watch.LinkFree ∧ watch.recovering = false) ∧ (holdup.LinkFree ∧ holdup.recovering = false) ∧
    (LaneMode.code .async = 2 ∧ 16 ≤ 16 ∧ 65535 ≤ 65535 ∧ (watch.lane 15).settings.report = false) ∧
    ({ laneOf .waiting (.held [1]) .empty false [] with settings := ⟨.clocked, 417, false, true⟩ } : Lane).settings.report = true ∧
    watch.link.parked = none ∧ (TriggerMode.code .flush = 3 ∧ 15 ≤ 15 ∧ 8 ∈ [1, 2, 4, 8] ∧ 3 ∉ [1, 2, 4, 8]) ∧
    (watch.monitor.power = .main ∧ holdup.monitor.power = .holdup ∧ ¬ (1000 < 1000 ∨ 20000 < 1000 ∨ 1 = 0)) ∧
    (¬ (4095 < 4094 ∨ 4095 < 4095 ∨ 4095 ≤ 4094 ∨ 8 = 0 ∨ 8 < 8)) ∧ capture.epoch.state = .capture ∧ watch.epoch.state = .watch ∧
    ¬ (8 < 8 ∨ 1024 < 8 ∨ 2 ∉ [1, 2]) :=
  ⟨⟨⟨by decide +kernel, by decide +kernel⟩, by decide +kernel⟩, ⟨⟨by decide +kernel, by decide +kernel⟩, by decide +kernel⟩,
    by decide +kernel⟩

/-- R169, R185 (log 15): a CONFIGURE of a lane that reports its aborted fragment, with a WAIT for an anomaly parked and with one
for another condition. -/
theorem test_meets_ConfigureAtOnce_parked :
    (let l : Lane := { laneOf .waiting (.held [1]) .empty false [] with settings := ⟨.clocked, 417, false, true⟩ }
     let s (cond : WaitCond) : State := { onLane l with
       anomalies := Anomalies.start, link := { watch.link with parked := some ⟨9, cond, none⟩ } }
     let got (cond : WaitCond) := exec (.configureLane 1 3 0 417 false true) (s cond)
     ((s .anomalyPresent).lane 3).settings.report = true ∧ ((s .anomalyPresent).lane 3).slot0 ≠ .empty ∧
     nextIs (got .anomalyPresent)
       (fun t => decide (t.link.tx.map (fun r => (r.tag, r.status)) = [(9, .ok), (1, .applied)])) = true ∧
     nextIs (got (.record 0)) (fun t => decide (t.link.tx.map (fun r => (r.tag, r.status)) = [(1, .applied)])) = true) := by
  decide +kernel

theorem test_meets_StreamAndCounterReports : (watch.LinkFree ∧ watch.recovering = false) ∧ watch.MapLawful ∧ 511 ≤ 511 ∧ 511 < 512 ∧
    watch.mapping 511 = some (63, false, 7) ∧ watch.lookup ⟨63, 7⟩ = .found 511 false ∧ 9 < 10 ∧ 15 < 16 ∧ 5 < 6 ∧
    (15 : LaneNo).val = 15 ∧ (5 : LineNo).val = 5 :=
  ⟨⟨⟨by decide +kernel, by decide +kernel⟩, by decide +kernel⟩, watch_map_lawful, by decide +kernel⟩

/-- A sector in use with a first record at its page 1, and the tail past it. -/
def stored : State := { watch with
  directory := watch.directory.set 1 (.inUse ⟨1, 1, 1⟩ (some 5))
  store := { watch.store with tail := 260, oldest := some (5, 257), lastSeq := 5 } }

/-- Records present and absent, the port in FAULT, the host's idea right and wrong, and the limit of the release. -/
theorem test_meets_FlashRequestsTestAndClaim : ((watch.LinkFree ∧ watch.recovering = false) ∧ watch.monitor.power = .main) ∧
    ((stored.LinkFree ∧ stored.recovering = false) ∧ stored.monitor.power = .main) ∧ watch.lookupStart 5 = none ∧
    stored.lookupStart 5 = some 257 ∧ watch.listStart 0 = none ∧ stored.listStart 0 = some 257 ∧ 257 ≠ stored.store.tail ∧
    stored.port.fault = false ∧ stored.store.oldest = some (5, 257) ∧ watch.store.oldest = none ∧ 5 ≤ stored.store.lastSeq ∧
    stored.store.lastSeq < 6 ∧ ¬ (stored.epoch.state = .capture ∨ stored.epoch.state = .flush) ∧
    stored.imageSeq < 4294967295 ∧ stored.store.oldest.isSome = true ∧ watch.store.oldest.isSome = false ∧
    watch.writer.inFlight = none ∧ watch.port.inFlight = none ∧ watch.port.waitWriter = none ∧ 1024 ≤ 1024 ∧ 16 ≤ 16 ∧
    ({ stored with port := { stored.port with fault := true } } : State).port.fault = true ∧ watch.store.tail / 256 = 1 :=
  ⟨⟨⟨⟨by decide +kernel, by decide +kernel⟩, by decide +kernel⟩, by decide +kernel⟩,
    ⟨⟨⟨by decide +kernel, by decide +kernel⟩, by decide +kernel⟩, by decide +kernel⟩, by decide +kernel⟩

/-- Two sectors in use, with these first-record pages and sequences. -/
def storedTwice (first second : Nat × Option Nat) : State := { watch with
  directory := (watch.directory.set 1 (.inUse ⟨1, 1, first.1⟩ first.2)).set 2 (.inUse ⟨2, 1, second.1⟩ second.2)
  store := { watch.store with tail := 600 } }

/-- Where lookup and a listing begin: in each of two sectors, at the tail, below the oldest sector's first record, and, where the
oldest sector has no first record, at the walk start (log 49). -/
theorem test_meets_FlashRequestsTestAndClaim_starts :
    (let s := storedTwice (1, some 5) (1, some 9)
     s.inUse = [⟨1, ⟨1, 1, 1⟩, some 5⟩] ++ ⟨2, ⟨2, 1, 1⟩, some 9⟩ :: [] ∧ s.inUse.head? = some ⟨1, ⟨1, 1, 1⟩, some 5⟩ ∧
     firstRecordPage s.inUse = some 257 ∧ s.lookupStart 9 = some 513 ∧ s.lookupStart 8 = some 257 ∧ s.lookupStart 4 = none ∧
     s.listStart 9 = some 513 ∧ s.listStart 8 = some 257 ∧ s.listStart 4 = some 257 ∧ s.listStart 0 = some 257 ∧
     ({ s with store := { s.store with tail := 513 } } : State).lookupStart 9 = none) ∧
    (let s := storedTwice (0, none) (1, some 9)
     s.inUse = [⟨1, ⟨1, 1, 0⟩, none⟩] ++ ⟨2, ⟨2, 1, 1⟩, some 9⟩ :: [] ∧ firstRecordPage s.inUse = some 513 ∧
     s.lookupStart 8 = none ∧ s.listStart 8 = some 513) ∧
    (watch.inUse = [] ∧ firstRecordPage watch.inUse = none) := by decide +kernel

/-- The order of FORMAT's erases: with nothing in use; with the oldest sector not the tail's; with the tail in sector 511. -/
theorem test_meets_FlashRequestsTestAndClaim_order : watch.dir 0 = .unknown ∧ (watch.store.tail / 256 = 1 ∧ 2 = 1 % 511 + 1) ∧
    (watch.formatOrder.take 3 = [2, 3, 4] ∧ watch.formatOrder.length = 511 ∧ watch.formatOrder.getLast? = some 1) ∧
    (let s := storedTwice (1, some 5) (1, some 9)
     s.store.tail / 256 = 2 ∧ s.inUse.head?.map (·.sector) = some 1 ∧ s.formatOrder.take 3 = [1, 3, 4] ∧
     s.formatOrder.getLast? = some 2) ∧
    (let s : State := { watch with store := { watch.store with tail := 131071 } }
     s.store.tail / 256 = 511 ∧ 1 = 511 % 511 + 1 ∧ s.formatOrder.take 2 = [1, 2]) := by decide +kernel

/-- A WAIT parked, none parked with the condition holding (last sequence 1 after 0) and not (1 after 1), and each condition. -/
theorem test_meets_WaitParksAndResolves : (idle.LinkFree ∧ idle.recovering = false) ∧ idle.link.parked = none ∧
    (let s : State := { idle with store := { idle.store with lastSeq := 1 } }
     0 < s.store.lastSeq ∧ ¬ 1 < s.store.lastSeq) ∧ (EpochState.code .closed = 4 ∧ idle.epoch.state = .closed) ∧
    idle.anomalies.entries ≠ [] ∧
    (let s : State := { idle with link := { idle.link with parked := some ⟨1, .record 0, some 0⟩ } }
     s.link.parked = some ⟨1, .record 0, some 0⟩ ∧ s.link.parked ≠ none) ∧
    ({ idle with link := { idle.link with parked := some ⟨1, .epochChange .watch, none⟩ } } : State).link.parked
      = some ⟨1, .epochChange .watch, none⟩ :=
  ⟨⟨⟨by decide +kernel, by decide +kernel⟩, by decide +kernel⟩, by decide +kernel⟩

/-- RESTART in each kind of epoch state, and replies of the server, of the parked WAIT and of an accepted RESTART. -/
theorem test_meets_RestartAndReplySent : (capture.LinkFree ∧ capture.recovering = false) ∧ (watch.LinkFree ∧ watch.recovering = false) ∧
    capture.epoch.state = .capture ∧ ¬ (watch.epoch.state = .capture ∨ watch.epoch.state = .flush) ∧ idle.link.tx = [] ∧
    (let s : State := { State.reset with link := { idle.link with
        tx := [⟨0x01, 1, .ok, [], true, false⟩], queue := [⟨.identify, 1, 0, 0⟩, ⟨.status, 2, 0, 0⟩], server := .replying } }
     s.link.tx = [⟨0x01, 1, .ok, [], true, false⟩] ∧ s.recovering = true ∧
     s.link.queue = [⟨.identify, 1, 0, 0⟩, ⟨.status, 2, 0, 0⟩]) ∧
    ((⟨0x15, 1, .ok, [], false, false⟩ : Reply).server = false ∧ (⟨0x16, 1, .ok, [], true, true⟩ : Reply).reset = true) ∧
    idle.port.inFlight = none :=
  ⟨⟨⟨by decide +kernel, by decide +kernel⟩, by decide +kernel⟩, ⟨⟨by decide +kernel, by decide +kernel⟩, by decide +kernel⟩,
    by decide +kernel⟩
/-- A server that takes the next request of a queue, with a kind it does not know, during recovery, and with a bad body. -/
theorem test_meets_RestartAndReplySent_next :
    (let s : State := { idle with link := { idle.link with
        tx := [⟨0x01, 1, .ok, [], true, false⟩], queue := [⟨.identify, 1, 0, 0⟩, ⟨.unknown 23, 2, 0, 0⟩], server := .replying } }
     s.link.server ≠ .free ∧ s.link.queue = [⟨.identify, 1, 0, 0⟩, ⟨.unknown 23, 2, 0, 0⟩] ∧
     nextIs (exec (.replySent false false) s)
       (fun t => decide (t.link.tx.map (fun r => (r.tag, r.status)) = [(2, .unknownRequest)])) = true) ∧
    (let s : State := { idle with link := { idle.link with queue := [⟨.malformed 10, 2, 0, 0⟩] } }
     s.link.server = .free ∧ s.link.queue = [⟨.malformed 10, 2, 0, 0⟩] ∧ s.recovering = false) ∧
    (let s : State := { State.reset with link := { State.reset.link with queue := [⟨.rearm, 2, 0, 0⟩] } }
     s.recovering = true ∧ s.link.queue = [⟨.rearm, 2, 0, 0⟩] ∧ Request.rearm ≠ .identify ∧ Request.rearm ≠ .malformed 1) ∧
    ((Instr.rearm 2).request = some (.rearm, 2) ∧ idle.tick = 0 ∧ idle.wrap = 0) := by decide +kernel

theorem test_meets_RestartAndReplySent_kind : idle.LinkFree ∧ ∀ kind, Request.rearm ≠ .unknown kind :=
  ⟨⟨by decide +kernel, by decide +kernel⟩, fun _ h => (by cases h)⟩

end Sys2Proof.Tests
end

/-! Hold-up power and the energy budget (05_hold_up_power_and_the_energy_budget.md): the voltage of a code, the estimate and
the budget's answer, then the scan, the comparator's verdict, and what MAIN_LOST and MAIN_RESTORED come to. -/

namespace Sys2Proof.Machine.HoldupPower

/-! ### Voltage and energy (R97 to R101) -/

/-- R90: a conversion code has 12 bits, and so has the smallest of the last four. -/
theorem codeUsed_le (m : Monitor) : m.codeUsed ≤ 4095 := by
  unfold Monitor.codeUsed
  rw [List.foldl_min]
  exact Nat.min_le_left _ _

/-- R90: with a new code pushed, the oldest of the four no longer counts. -/
theorem codeUsed_pushCode (m : Monitor) (a : AdcCode) :
    ({ m with codes := pushCode m.codes a.val } : Monitor).codeUsed =
      min a.val (min (m.codes.getD 0 0) (min (m.codes.getD 1 0) (m.codes.getD 2 0))) := by
  have ha := a.isLt
  simp only [Monitor.codeUsed, pushCode, List.foldl_cons, List.foldl_nil]
  omega

/-- R97: the code that means the scale setting is 4096, which no conversion reaches. -/
theorem voltage_lt_scale {code scale : Nat} (hcode : code < 4096) (hscale : 0 < scale) : voltage code scale < scale :=
  Nat.div_lt_of_lt_mul (Nat.mul_lt_mul_of_pos_right hcode hscale)

/-- Settles O40: the two inequalities of the floor, and the bound of the code used. -/
theorem voltageFollowsCode : Obligations.VoltageFollowsCode := by
  unfold Obligations.VoltageFollowsCode
  refine ⟨fun code scale => ⟨Nat.div_mul_le_self _ _, ?_⟩, fun m scale hscale => ?_, fun scale => ?_, fun s => rfl⟩
  · exact Nat.mul_comm 4096 _ ▸ Nat.lt_mul_div_succ (code * scale) (by decide : 0 < 4096)
  · exact voltage_lt_scale (Nat.lt_succ_of_le (codeUsed_le m)) hscale
  · simp [voltage]

/-- R98: at the floor voltage or below nothing is left to use. -/
theorem energyOf_at_floor {b : BudgetSettings} {v : Nat} (h : v ≤ b.floor) : energyOf b v = 0 := if_pos h

/-- R98: above the floor the estimate is the energy between the two voltages, at most what 32 bits hold. -/
theorem energyOf_above_floor {b : BudgetSettings} {v : Nat} (h : b.floor < v) :
    energyOf b v = min (2 ^ 32 - 1) (b.capacitance * (v ^ 2 - b.floor ^ 2) / 2000) := by
  rw [Nat.pow_two, Nat.pow_two]
  exact if_neg (Nat.not_le_of_gt h)

/-- R100: truncated subtraction is the difference, 0 when that is negative. -/
theorem available_eq_max (b : Budget) :
    (b.available : Int) = max 0 ((b.energy : Int) - b.settings.pageCost * b.outstanding - b.settings.reserve) := by
  have hc : (b.committed : Int) = b.settings.pageCost * b.outstanding := by simp [Budget.committed]
  rw [← hc]
  unfold Budget.available
  omega

/-- R101: a yes asks for both tests. -/
theorem answer_iff (b : Budget) (c n : Nat) :
    b.answer c n = true ↔ c ≤ b.settings.ceiling ∧ n * b.settings.pageCost ≤ b.available := by
  simp [Budget.answer]

/-- R99: admission commits the pages' cost. -/
theorem committed_commitPages (s : State) (n : Nat) :
    (s.commitPages n).budget.committed = s.budget.committed + n * s.budget.settings.pageCost := by
  simp [Budget.committed, Nat.mul_add, Nat.mul_comm n]

/-- R99: pages programmed or abandoned give their cost back. -/
theorem committed_uncommitPages (s : State) {n : Nat} (h : n ≤ s.budget.outstanding) :
    (s.uncommitPages n).budget.committed + n * s.budget.settings.pageCost = s.budget.committed := by
  simp only [Budget.committed, State.uncommitPages_fields, Nat.mul_comm n, ← Nat.mul_add, Nat.sub_add_cancel h]

/-- Settles O41: each clause is the law of one of the budget unit's operations. -/
theorem energyAndAdmissionAnswer : Obligations.EnergyAndAdmissionAnswer := by
  unfold Obligations.EnergyAndAdmissionAnswer
  exact ⟨fun _ _ => energyOf_at_floor, fun _ _ => energyOf_above_floor, available_eq_max, answer_iff,
    committed_commitPages, fun s _ => committed_uncommitPages s⟩

/-! ### The scan and the comparator (R88 to R91) -/

theorem exec_scanTimerExpiry (s : State) : exec .scanTimerExpiry s = execScanTimerExpiry s := rfl

theorem exec_scanComplete (a0 a1 : AdcCode) (s : State) : exec (.scanComplete a0 a1) s = execScanComplete a0 a1 s := rfl

theorem exec_scanTimerExpiry_stopped {s : State} (h : s.monitor.scanTimer = none) : exec .scanTimerExpiry s = .next s := by
  rw [exec_scanTimerExpiry, execScanTimerExpiry, h]

theorem exec_scanTimerExpiry_running {s : State} (h : s.monitor.scanTimer ≠ none) :
    exec .scanTimerExpiry s = .next { s with monitor := { s.monitor with scanning := true, scanTimer := none } } := by
  obtain ⟨left, hleft⟩ := Option.ne_none_iff_exists'.mp h
  rw [exec_scanTimerExpiry, execScanTimerExpiry, hleft]

theorem exec_scanComplete_not_scanning {s : State} (h : s.monitor.scanning = false) (a0 a1 : AdcCode) :
    exec (.scanComplete a0 a1) s = .next s := by
  rw [exec_scanComplete, execScanComplete, h]
  rfl

/-- An examination is due when it was, or in HOLDUP (R72, R98). -/
def dueInHoldup (s : State) : State :=
  { s with examDue := s.examDue || decide (s.monitor.power = .holdup) }

theorem dueInHoldup_of_due {s : State} (h : s.examDue = true) : dueInHoldup s = s := by
  rw [dueInHoldup, h, Bool.true_or, ← h]

/-- A scan in progress is taken whole (R88): stored, declared, and the change closed. -/
theorem exec_scanComplete_verdict {s : State} (h : s.monitor.scanning = true) {a0 a1 : AdcCode} {v : Verdict}
    (hv : s.monitor.compare a1.val = v) :
    exec (.scanComplete a0 a1) s = .next (dueInHoldup ((s.storeScan a0.val a1.val).declare v)).finish := by
  rw [exec_scanComplete, execScanComplete, h, hv]
  rfl

/-- R90, R97, R98: the estimate that a scan's A0 code leaves. -/
def scanEnergy (s : State) (a0 : Nat) : Nat :=
  let c (k : Nat) : Nat := s.monitor.codes.getD k 0
  energyOf s.budget.settings (voltage (min a0 (min (c 0) (min (c 1) (c 2)))) s.budget.settings.scale)

/-- R88, R90: the monitor with a scan's codes stored, its timer started. -/
def scanMonitor (m : Monitor) (a0 a1 : Nat) : Monitor :=
  { m with
    codes := pushCode m.codes a0, lastA1 := a1, scansSeen := min 4 (m.scansSeen + 1), scanning := false
    scanTimer := some (scanInterval m.settings.interval) }

/-- A stored scan changes the monitor, the scan count and the estimate. -/
theorem storeScan_eq (s : State) (a0 : AdcCode) (a1 : Nat) : s.storeScan a0.val a1 = { s with
    monitor := scanMonitor s.monitor a0.val a1
    powerCounters := { s.powerCounters with scans := satInc max32 s.powerCounters.scans }
    budget := { s.budget with energy := scanEnergy s a0.val } } := by
  have hcode : (scanMonitor s.monitor a0.val a1).codeUsed = _ := codeUsed_pushCode s.monitor a0
  have henergy : scanEnergy s a0.val = energyOf s.budget.settings
      (voltage (scanMonitor s.monitor a0.val a1).codeUsed s.budget.settings.scale) := by
    rw [hcode]; rfl
  rw [henergy]
  rfl

/-- R91: the codes that do not move the power state: one that does not count, and one that counts below the setting. -/
theorem compare_eq_count {m : Monitor} {a n : Nat}
    (h : (m.power = .main ∧ ¬ a < m.settings.failThreshold ∧ n = 0) ∨
      (m.power = .main ∧ a < m.settings.failThreshold ∧ ¬ m.settings.count ≤ m.run + 1 ∧ n = m.run + 1) ∨
      (m.power = .holdup ∧ ¬ m.settings.restoreThreshold ≤ a ∧ n = 0) ∨
      (m.power = .holdup ∧ m.settings.restoreThreshold ≤ a ∧ ¬ m.settings.count ≤ m.run + 1 ∧ n = m.run + 1)) :
    m.compare a = .count n := by
  unfold Monitor.compare
  obtain ⟨hp, ha, rfl⟩ | ⟨hp, ha, hl, rfl⟩ | ⟨hp, ha, rfl⟩ | ⟨hp, ha, hl, rfl⟩ := h <;> rw [hp] <;> dsimp only
  · rw [if_neg ha]
  · rw [if_pos ha, if_pos (Nat.lt_of_not_le hl)]
  · rw [if_neg ha]
  · rw [if_pos ha, if_pos (Nat.lt_of_not_le hl)]

/-- R91, R93: in MAIN the count that reaches the setting declares the loss. -/
theorem compare_eq_lost {m : Monitor} {a : Nat} (hp : m.power = .main) (ha : a < m.settings.failThreshold)
    (hl : m.settings.count ≤ m.run + 1) : m.compare a = .lost := by
  unfold Monitor.compare
  rw [hp]
  dsimp only
  rw [if_pos ha, if_neg (Nat.not_lt_of_le hl)]

/-- R91, R95: in HOLDUP the count that reaches the setting declares the return. -/
theorem compare_eq_restored {m : Monitor} {a : Nat} (hp : m.power = .holdup) (ha : m.settings.restoreThreshold ≤ a)
    (hl : m.settings.count ≤ m.run + 1) : m.compare a = .restored := by
  unfold Monitor.compare
  rw [hp]
  dsimp only
  rw [if_pos ha, if_neg (Nat.not_lt_of_le hl)]

/-! ### The request in service at MAIN_LOST (R84) -/

/-- A reply of the server, with the request it answers at the head of the queue. -/
theorem serverReply_of_queue {s : State} {q : Queued} {rest : List Queued} (hq : s.link.queue = q :: rest) (status : Status)
    (body : List Byte) : s.serverReply status body = s.replied q.req.kind q.tag status body false := by
  rw [State.serverReply, State.replyWith, hq]
  rfl

theorem oldestSeq_eq (t : Store) : t.oldestSeq = (t.oldest.map Prod.fst).getD 0 := by
  unfold Store.oldestSeq
  cases t.oldest <;> rfl

section EndRefused

variable {s : State} {q : Queued} {rest : List Queued} {ended : Bool}

/-- R16: a RELEASE ends with its count and the oldest sequence. -/
theorem endRefused_release {upTo marked : Nat} (hs : s.link.server = .working (.release upTo marked) ended)
    (hq : s.link.queue = q :: rest) : s.endRefused = s.replied q.req.kind q.tag .refusedState
      (le 4 marked ++ le 4 ((s.store.oldest.map Prod.fst).getD 0)) false := by
  rw [State.endRefused, hs, ← oldestSeq_eq]
  exact serverReply_of_queue hq _ _

/-- R18: a FORMAT ends with LOW re-evaluated. -/
theorem endRefused_format {sectors : List Nat} (hs : s.link.server = .working (.format sectors) ended)
    (hq : s.link.queue = q :: rest) :
    s.endRefused = (s.replied q.req.kind q.tag .refusedState [] false).evalLow := by
  rw [State.endRefused, hs, ← serverReply_of_queue hq]

/-- R20, R84: any other request ends with an empty body. -/
theorem endRefused_other {job : Job} (hs : s.link.server = .working job ended) (hq : s.link.queue = q :: rest)
    (hr : ∀ upTo marked, job ≠ .release upTo marked) (hf : ∀ sectors, job ≠ .format sectors) :
    s.endRefused = s.replied q.req.kind q.tag .refusedState [] false := by
  rw [← serverReply_of_queue hq, State.endRefused, hs]
  cases job with
  | release upTo marked => exact absurd rfl (hr upTo marked)
  | format sectors => exact absurd rfl (hf sectors)
  | _ => rfl

end EndRefused

theorem endServiceAtLoss_idle {s : State} (h : ∀ job ended, s.link.server ≠ .working job ended) : s.endServiceAtLoss = s := by
  unfold State.endServiceAtLoss
  split
  · exact absurd ‹_› (h _ _)
  · rfl

/-- With its operation in flight the request ends when that has completed. -/
theorem endServiceAtLoss_in_flight {s : State} {job : Job} {ended : Bool} (hs : s.link.server = .working job ended)
    (hw : s.port.waitService = none) : s.endServiceAtLoss = { s with link := { s.link with server := .working job true } } := by
  simp [State.endServiceAtLoss, hs, hw]

/-- The waiting claim is withdrawn. -/
def dropClaim (s : State) : State := { s with port := { s.port with waitService := none } }

theorem endServiceAtLoss_waiting {s : State} {job : Job} {ended : Bool} {op : FlashOp}
    (hs : s.link.server = .working job ended) (hw : s.port.waitService = some op) :
    s.endServiceAtLoss = (dropClaim s).endRefused := by
  simp [State.endServiceAtLoss, hs, hw, dropClaim]

/-! ### The epoch controller at MAIN_LOST (R94) -/

/-- FLUSH entered with cause POWER, the grace timer at `timer` (R116). -/
def powerFlushed (s : State) (timer : Option Nat) : State := { s with
  epoch := { s.epoch with
    state := .flush, flushCause := .power, flushTick := s.tick, windowTimer := none, quietTimer := none
    graceTimer := timer }
  history := s.history.place s.tick (.part .epoch) 0x0202 [5, 0] }

/-- The grace timer set: R184's conditions do not read it. -/
def withGrace (s : State) (timer : Option Nat) : State := { s with epoch := { s.epoch with graceTimer := timer } }

theorem tellEpoch_withGrace (s : State) (timer : Option Nat) : (withGrace s timer).tellEpoch = withGrace s.tellEpoch timer := by
  have hparked : (withGrace s timer).link.parked = s.link.parked := rfl
  unfold State.tellEpoch
  rw [hparked]
  rcases s.link.parked with _ | ⟨tag, cond, left⟩
  · rfl
  · cases cond with
    | epochChange x =>
      dsimp only
      rw [apply_ite (withGrace · timer)]
      rfl
    | _ => rfl

theorem enterFlush_power (s : State) (grace : Nat) : s.enterFlush .power grace =
    if duration grace = 0 then (powerFlushed s s.epoch.graceTimer).tellEpoch.closeStreams
    else withGrace (powerFlushed s s.epoch.graceTimer).tellEpoch (some (duration grace * 1000)) := rfl

section EpochPowerEvent

variable {s : State}

theorem epochPowerEvent_watch (h : s.epoch.state = .watch) :
    s.epochPowerEvent = if s.epoch.settings.powerOpens then s.openRequest .power else s := by
  rw [State.epochPowerEvent, h]

theorem epochPowerEvent_closed (h : s.epoch.state = .closed) : s.epochPowerEvent = s := by
  rw [State.epochPowerEvent, h]

theorem epochPowerEvent_capture (h : s.epoch.state = .capture) :
    s.epochPowerEvent = s.enterFlush .power s.epoch.settings.holdupGrace := by
  rw [State.epochPowerEvent, h]

theorem epochPowerEvent_flush (h : s.epoch.state = .flush) : s.epochPowerEvent = s.cutGrace := by
  rw [State.epochPowerEvent, h]

/-- A hold-up grace of 0: all streams close as FLUSH is entered. -/
theorem epochPowerEvent_capture_no_grace (h : s.epoch.state = .capture)
    (held : duration s.epoch.settings.holdupGrace * 1000 = 0) :
    s.epochPowerEvent = (powerFlushed s s.epoch.graceTimer).tellEpoch.closeStreams := by
  rw [epochPowerEvent_capture h, enterFlush_power, if_pos (by omega)]

theorem epochPowerEvent_capture_grace (h : s.epoch.state = .capture)
    (held : duration s.epoch.settings.holdupGrace * 1000 ≠ 0) : s.epochPowerEvent =
      (powerFlushed s (some (duration s.epoch.settings.holdupGrace * 1000))).tellEpoch := by
  rw [epochPowerEvent_capture h, enterFlush_power, if_neg (by omega), ← tellEpoch_withGrace]
  rfl

theorem cutGrace_stopped (h : s.epoch.graceTimer = none) : s.cutGrace = s := by
  rw [State.cutGrace, h]

theorem cutGrace_at_once {left : Nat} (h : s.epoch.graceTimer = some left)
    (held : duration s.epoch.settings.holdupGrace * 1000 = 0) : s.cutGrace = s.closeStreams := by
  rw [State.cutGrace, h]
  exact if_pos held

/-- The time left never grows. -/
theorem cutGrace_running {left : Nat} (h : s.epoch.graceTimer = some left)
    (held : duration s.epoch.settings.holdupGrace * 1000 ≠ 0) :
    s.cutGrace = withGrace s (some (min (duration s.epoch.settings.holdupGrace * 1000) left)) := by
  rw [State.cutGrace, h]
  dsimp only
  rw [if_neg held]
  split
  case isTrue hlt => rw [Nat.min_eq_left (Nat.le_of_lt hlt)]; rfl
  case isFalse hge => rw [Nat.min_eq_right (Nat.le_of_not_lt hge), ← h]; rfl

end EpochPowerEvent

/-! ### An examination that is due stays due -/

theorem closeStreams_examDue {s : State} (h : s.examDue = true) : s.closeStreams.examDue = true := by
  unfold State.closeStreams
  split
  · exact h
  · rfl

theorem tellEpoch_examDue (s : State) : s.tellEpoch.examDue = s.examDue := s.tellEpoch_only .examDue (by decide)

theorem openEpoch_examDue (s : State) (cause : OpenCause) : (s.openEpoch cause).examDue = true := by
  rw [State.openEpoch]
  dsimp only
  rw [tellEpoch_examDue]
  rfl

theorem openRequest_examDue {s : State} (h : s.examDue = true) (cause : OpenCause) :
    (s.openRequest cause).examDue = true := by
  have hpost : (s.postCannotOpen cause).examDue = s.examDue := s.post_only _ .examDue (by decide)
  unfold State.openRequest
  cases s.epoch.state with
  | watch =>
    dsimp only
    split
    · exact openEpoch_examDue s cause
    · exact hpost.trans h
  | _ => exact h

theorem cutGrace_examDue {s : State} (h : s.examDue = true) : s.cutGrace.examDue = true := by
  unfold State.cutGrace
  split
  · exact h
  · dsimp only
    split
    · exact closeStreams_examDue h
    · split <;> exact h

theorem epochPowerEvent_examDue {s : State} (h : s.examDue = true) : s.epochPowerEvent.examDue = true := by
  have hflushed : (powerFlushed s s.epoch.graceTimer).tellEpoch.examDue = true := (tellEpoch_examDue _).trans h
  cases hs : s.epoch.state with
  | watch =>
    rw [epochPowerEvent_watch hs]
    split
    · exact openRequest_examDue h .power
    · exact h
  | capture =>
    rw [epochPowerEvent_capture hs, enterFlush_power]
    split
    · exact closeStreams_examDue hflushed
    · exact hflushed
  | flush => rw [epochPowerEvent_flush hs]; exact cutGrace_examDue h
  | closed => rw [epochPowerEvent_closed hs]; exact h

/-! ### MAIN_LOST and MAIN_RESTORED (R93, R95) -/

/-- MAIN_LOST before the request in service ends and the epoch controller is told (log 15). In HOLDUP no space is erasable, so
that LOW weighs the erased run alone (R13). -/
def lossDeclared (s : State) : State := { s with
  monitor := { s.monitor with power := .holdup, run := 0 }
  powerCounters := { s.powerCounters with losses := satInc max16 s.powerCounters.losses }
  port := { s.port with waitErase := none }
  store := { s.store with low := s.formatting || decide (s.store.erasedRun < s.armMinimum) }
  history := s.history.place s.tick (.part .power) 0x0301 s.powerData
  examDue := true }

/-- MAIN_RESTORED but for LOW. -/
def returnDeclared (s : State) : State := { s with
  monitor := { s.monitor with power := .main, run := 0 }
  powerCounters := { s.powerCounters with restorations := satInc max16 s.powerCounters.restorations }
  history := s.history.place s.tick (.part .power) 0x0302 s.powerData
  examDue := true }

theorem mainLost_eq (s : State) : s.mainLost = (lossDeclared s).endServiceAtLoss.epochPowerEvent := rfl

theorem mainRestored_eq (s : State) : s.mainRestored = (returnDeclared s).evalLow := rfl

theorem mainLost_examDue (s : State) : s.mainLost.examDue = true := by
  have hend : (lossDeclared s).endServiceAtLoss.examDue = true := State.endServiceAtLoss_only _ .examDue (by decide)
  rw [mainLost_eq]
  exact epochPowerEvent_examDue hend

section Declared

variable {s : State} {a0 a1 : AdcCode} (hscan : s.monitor.scanning = true)
include hscan

theorem exec_scanComplete_count {n : Nat} (hv : s.monitor.compare a1.val = .count n) :
    exec (.scanComplete a0 a1) s = .next ({ s with
      monitor := { scanMonitor s.monitor a0.val a1.val with run := n }
      powerCounters := { s.powerCounters with scans := satInc max32 s.powerCounters.scans }
      budget := { s.budget with energy := scanEnergy s a0.val }
      examDue := s.examDue || decide (s.monitor.power = .holdup) } : State).finish := by
  rw [exec_scanComplete_verdict hscan hv, storeScan_eq]
  rfl

theorem exec_scanComplete_lost (hv : s.monitor.compare a1.val = .lost) : exec (.scanComplete a0 a1) s =
    .next (lossDeclared (s.storeScan a0.val a1.val)).endServiceAtLoss.epochPowerEvent.finish := by
  rw [exec_scanComplete_verdict hscan hv, State.declare, dueInHoldup_of_due (mainLost_examDue _), mainLost_eq]

theorem exec_scanComplete_restored (hv : s.monitor.compare a1.val = .restored) : exec (.scanComplete a0 a1) s =
    .next (returnDeclared (s.storeScan a0.val a1.val)).evalLow.finish := by
  rw [exec_scanComplete_verdict hscan hv, State.declare, mainRestored_eq, dueInHoldup_of_due rfl]

end Declared

/-- Settles O39: the scan's commands by the comparator's verdict, then what MAIN_LOST does to the request in service by its
job and to the epoch by its state. -/
theorem scanStoresCodesAndCompares : Obligations.ScanStoresCodesAndCompares := by
  unfold Obligations.ScanStoresCodesAndCompares
  refine ⟨fun s a0 a1 => ⟨exec_scanTimerExpiry_stopped, exec_scanTimerExpiry_running,
    fun h => exec_scanComplete_not_scanning h a0 a1, fun hscan => ⟨fun n h => ?_, fun hp ha hl => ?_, fun hp ha hl => ?_⟩⟩,
    fun s => endServiceAtLoss_idle,
    fun s job ended hs => ⟨endServiceAtLoss_in_flight hs, fun op q rest hw hq => ?_⟩, fun s => ?_⟩
  · exact exec_scanComplete_count hscan (compare_eq_count h)
  · have hlost := exec_scanComplete_lost (a0 := a0) hscan (compare_eq_lost hp ha hl)
    rw [storeScan_eq] at hlost
    exact hlost
  · have hrestored := exec_scanComplete_restored (a0 := a0) hscan (compare_eq_restored hp ha hl)
    rw [storeScan_eq] at hrestored
    exact hrestored
  · rw [endServiceAtLoss_waiting hs hw]
    refine ⟨fun upTo marked hj => ?_, fun sectors hj => ?_, fun hr hf => ?_⟩
    · subst hj; exact endRefused_release (s := dropClaim s) hs hq
    · subst hj; exact endRefused_format (s := dropClaim s) hs hq
    · exact endRefused_other (s := dropClaim s) hs hq hr hf
  · refine ⟨fun h ho => ?_, fun h ho => ?_, epochPowerEvent_closed, epochPowerEvent_capture_grace,
      epochPowerEvent_capture_no_grace, fun h ht => ?_, fun left h ht => ⟨fun held => ?_, fun held => ?_⟩⟩
    · rw [epochPowerEvent_watch h, if_pos ho]
    · rw [epochPowerEvent_watch h, ho]; rfl
    · rw [epochPowerEvent_flush h, cutGrace_stopped ht]
    · rw [epochPowerEvent_flush h, cutGrace_at_once ht held]
    · rw [epochPowerEvent_flush h]; exact cutGrace_running ht held

end Sys2Proof.Machine.HoldupPower
